-- ==== Sys2Proof/Word.lean ====
section
/-! DEFINITION. The two word widths of the CORE (00_scope.md R7, R8): the data byte and the 16-bit address. -/

namespace Sys2Proof

/-- An 8-bit register or bus datum (R7). -/
abbrev Byte := BitVec 8

/-- A 16-bit address, program counter, stack pointer or register-pair view (R7). -/
abbrev Word := BitVec 16

end Sys2Proof
end

