-- ==== Sys2Proof/Syntax.lean ====
section
/-! DEFINITION. The instructions of the CORE as syntax: one constructor per mnemonic of spec/opcode_table.json, with
the fields of its rows (30_encoding.md R111 to R119) as operands. -/

namespace Sys2Proof

/-- The seven byte registers an instruction can name (30_encoding.md R112); F is never an operand (R31). -/
inductive Reg where
  | a | b | c | d | e | h | l
  deriving DecidableEq, Repr

/-- A 3-bit operand field `sss` or `ddd` (R112): a register, or M, the memory byte at address HL. -/
inductive Operand where
  | reg (r : Reg)
  | m
  deriving DecidableEq, Repr

/-- The pair field `rp` of LXI, INX, DCX, DAD, LDAX and STAX (R113). -/
inductive RegPair where
  | bc | de | hl | sp
  deriving DecidableEq, Repr

/-- The pair field `rp` of PUSH and POP, where 11 is PSW (R113). -/
inductive StackPair where
  | bc | de | hl | psw
  deriving DecidableEq, Repr

/-- The condition field `ccc` (R114). -/
inductive Cond where
  | nz | z | nc | c | po | pe | p | m
  deriving DecidableEq, Repr

/-- The instructions. `inp` is IN. -/
inductive Instr where
  -- arithmetic (41_arithmetic.md)
  | add (src : Operand)
  | adi (d8 : Byte)
  | adc (src : Operand)
  | aci (d8 : Byte)
  | sub (src : Operand)
  | sui (d8 : Byte)
  | sbb (src : Operand)
  | sbi (d8 : Byte)
  | cmp (src : Operand)
  | cpi (d8 : Byte)
  | inr (dst : Operand)
  | dcr (dst : Operand)
  | daa
  -- logical, complement, carry control, rotate (42_logical_rotate.md)
  | ana (src : Operand)
  | ani (d8 : Byte)
  | xra (src : Operand)
  | xri (d8 : Byte)
  | ora (src : Operand)
  | ori (d8 : Byte)
  | cma
  | cmc
  | stc
  | rlc
  | rrc
  | ral
  | rar
  -- data transfer (43_data_transfer.md)
  | mov (dst src : Operand)
  | mvi (dst : Operand) (d8 : Byte)
  | lxi (rp : RegPair) (d16 : Word)
  | lda (a16 : Word)
  | sta (a16 : Word)
  | lhld (a16 : Word)
  | shld (a16 : Word)
  | ldax (rp : RegPair)
  | stax (rp : RegPair)
  | xchg
  -- register-pair arithmetic (44_register_pair.md)
  | inx (rp : RegPair)
  | dcx (rp : RegPair)
  | dad (rp : RegPair)
  -- stack (45_stack.md)
  | push (rp : StackPair)
  | pop (rp : StackPair)
  | xthl
  | sphl
  -- control transfer (46_control_flow.md)
  | jmp (a16 : Word)
  | jnz (a16 : Word)
  | jz (a16 : Word)
  | jnc (a16 : Word)
  | jc (a16 : Word)
  | jpo (a16 : Word)
  | jpe (a16 : Word)
  | jp (a16 : Word)
  | jm (a16 : Word)
  | call (a16 : Word)
  | cnz (a16 : Word)
  | cz (a16 : Word)
  | cnc (a16 : Word)
  | cc (a16 : Word)
  | cpo (a16 : Word)
  | cpe (a16 : Word)
  | cp (a16 : Word)
  | cm (a16 : Word)
  | ret
  | rnz
  | rz
  | rnc
  | rc
  | rpo
  | rpe
  | rp
  | rm
  | rst (n : BitVec 3)
  | pchl
  -- machine control and I/O (47_machine_control.md)
  | nop
  | hlt
  | ei
  | di
  | inp (p8 : Byte)
  | out (p8 : Byte)
  deriving DecidableEq, Repr

end Sys2Proof
end

