-- ==== Sys2Proof/WellFormed.lean ====
section
/-! DEFINITION. Which terms of `Instr` are instructions of the CORE: the terms some opcode byte of 30_encoding.md R120
stands for. Two checks: MOV never has M on both sides (R123), and LDAX and STAX name only BC or DE (R113). -/

namespace Sys2Proof

/-- Not both operands of a MOV are M: the byte `01 110 110` is HLT (R123, 90_conflicts.md C1). -/
def Operand.movable : Operand → Operand → Bool
  | .m, .m => false
  | .m, .reg _ => true
  | .reg _, _ => true

/-- The pairs LDAX and STAX can name: bit 5 = 1 of that column selects LHLD, LDA, SHLD and STA (R113). -/
def RegPair.indirect : RegPair → Bool
  | .bc => true
  | .de => true
  | .hl => false
  | .sp => false

/-- The term is an instruction of the opcode map (R120). -/
def Instr.wellFormed : Instr → Bool
  | .mov dst src => Operand.movable dst src
  | .ldax pair => pair.indirect
  | .stax pair => pair.indirect
  | .add _ | .adi _ | .adc _ | .aci _ | .sub _ | .sui _ | .sbb _ | .sbi _ | .cmp _ | .cpi _ => true
  | .inr _ | .dcr _ | .daa => true
  | .ana _ | .ani _ | .xra _ | .xri _ | .ora _ | .ori _ => true
  | .cma | .cmc | .stc | .rlc | .rrc | .ral | .rar => true
  | .mvi _ _ | .lxi _ _ | .lda _ | .sta _ | .lhld _ | .shld _ | .xchg => true
  | .inx _ | .dcx _ | .dad _ | .push _ | .pop _ | .xthl | .sphl => true
  | .jmp _ | .jnz _ | .jz _ | .jnc _ | .jc _ | .jpo _ | .jpe _ | .jp _ | .jm _ => true
  | .call _ | .cnz _ | .cz _ | .cnc _ | .cc _ | .cpo _ | .cpe _ | .cp _ | .cm _ => true
  | .ret | .rnz | .rz | .rnc | .rc | .rpo | .rpe | .rp | .rm | .rst _ | .pchl => true
  | .nop | .hlt | .ei | .di | .inp _ | .out _ => true

end Sys2Proof
end

