-- ==== Sys2Proof/Decode.lean ====
section
/-! DEFINITION. The instruction decoder and the encoder. The decoder is a lookup in the opcode map of 30_encoding.md
R120 by the whole opcode byte (40_execute.md R152); the encoder puts the bit fields of R111 to R119 together. The two
are written from different tables of the spec. -/

namespace Sys2Proof

/-- `hi ++ lo`, which is `hi*256 + lo` (00_scope.md R8). -/
def joinBytes (hi lo : Byte) : Word := BitVec.ofNat 16 (hi.toNat * 256 + lo.toNat)

/-- `v[15:8]`. -/
def hiByte (v : Word) : Byte := BitVec.ofNat 8 (v.toNat / 256)

/-- `v[7:0]`. -/
def loByte (v : Word) : Byte := BitVec.ofNat 8 v.toNat

/-- A row of the opcode table as the decoder uses it: absent, or an instruction that still wants no operand byte, one
(`d8`, `p8`), or two (`d16`, `a16`). Its length is fixed by the opcode alone (R110). -/
inductive OpcodeRow where
  | absent
  | one (i : Instr)
  | byte (mk : Byte → Instr)
  | word (mk : Word → Instr)

open OpcodeRow

/-- The order of the operand columns of R120: the codes 000 to 111 of R112. -/
def operandColumns : List Operand :=
  [.reg .b, .reg .c, .reg .d, .reg .e, .reg .h, .reg .l, .m, .reg .a]

/-- The opcodes 0x00 to 0x0F (R120). -/
def opcodeRow0 : List OpcodeRow :=
  [one .nop, word (.lxi .bc), one (.stax .bc), one (.inx .bc),
   one (.inr (.reg .b)), one (.dcr (.reg .b)), byte (.mvi (.reg .b)), one .rlc,
   absent, one (.dad .bc), one (.ldax .bc), one (.dcx .bc),
   one (.inr (.reg .c)), one (.dcr (.reg .c)), byte (.mvi (.reg .c)), one .rrc]

/-- The opcodes 0x10 to 0x1F (R120). -/
def opcodeRow1 : List OpcodeRow :=
  [absent, word (.lxi .de), one (.stax .de), one (.inx .de),
   one (.inr (.reg .d)), one (.dcr (.reg .d)), byte (.mvi (.reg .d)), one .ral,
   absent, one (.dad .de), one (.ldax .de), one (.dcx .de),
   one (.inr (.reg .e)), one (.dcr (.reg .e)), byte (.mvi (.reg .e)), one .rar]

/-- The opcodes 0x20 to 0x2F (R120). -/
def opcodeRow2 : List OpcodeRow :=
  [absent, word (.lxi .hl), word .shld, one (.inx .hl),
   one (.inr (.reg .h)), one (.dcr (.reg .h)), byte (.mvi (.reg .h)), one .daa,
   absent, one (.dad .hl), word .lhld, one (.dcx .hl),
   one (.inr (.reg .l)), one (.dcr (.reg .l)), byte (.mvi (.reg .l)), one .cma]

/-- The opcodes 0x30 to 0x3F (R120). -/
def opcodeRow3 : List OpcodeRow :=
  [absent, word (.lxi .sp), word .sta, one (.inx .sp),
   one (.inr .m), one (.dcr .m), byte (.mvi .m), one .stc,
   absent, one (.dad .sp), word .lda, one (.dcx .sp),
   one (.inr (.reg .a)), one (.dcr (.reg .a)), byte (.mvi (.reg .a)), one .cmc]

/-- The opcodes 0x40 to 0x4F (R120). -/
def opcodeRow4 : List OpcodeRow :=
  operandColumns.map (fun s => one (.mov (.reg .b) s)) ++ operandColumns.map (fun s => one (.mov (.reg .c) s))

/-- The opcodes 0x50 to 0x5F (R120). -/
def opcodeRow5 : List OpcodeRow :=
  operandColumns.map (fun s => one (.mov (.reg .d) s)) ++ operandColumns.map (fun s => one (.mov (.reg .e) s))

/-- The opcodes 0x60 to 0x6F (R120). -/
def opcodeRow6 : List OpcodeRow :=
  operandColumns.map (fun s => one (.mov (.reg .h) s)) ++ operandColumns.map (fun s => one (.mov (.reg .l) s))

/-- The opcodes 0x70 to 0x7F (R120). -/
def opcodeRow7 : List OpcodeRow :=
  [one (.mov .m (.reg .b)), one (.mov .m (.reg .c)), one (.mov .m (.reg .d)), one (.mov .m (.reg .e)),
   one (.mov .m (.reg .h)), one (.mov .m (.reg .l)), one .hlt, one (.mov .m (.reg .a))]
  ++ operandColumns.map (fun s => one (.mov (.reg .a) s))

/-- The opcodes 0x80 to 0x8F (R120). -/
def opcodeRow8 : List OpcodeRow :=
  operandColumns.map (fun s => one (.add s)) ++ operandColumns.map (fun s => one (.adc s))

/-- The opcodes 0x90 to 0x9F (R120). -/
def opcodeRow9 : List OpcodeRow :=
  operandColumns.map (fun s => one (.sub s)) ++ operandColumns.map (fun s => one (.sbb s))

/-- The opcodes 0xA0 to 0xAF (R120). -/
def opcodeRowA : List OpcodeRow :=
  operandColumns.map (fun s => one (.ana s)) ++ operandColumns.map (fun s => one (.xra s))

/-- The opcodes 0xB0 to 0xBF (R120). -/
def opcodeRowB : List OpcodeRow :=
  operandColumns.map (fun s => one (.ora s)) ++ operandColumns.map (fun s => one (.cmp s))

/-- The opcodes 0xC0 to 0xCF (R120). -/
def opcodeRowC : List OpcodeRow :=
  [one .rnz, one (.pop .bc), word .jnz, word .jmp,
   word .cnz, one (.push .bc), byte .adi, one (.rst 0),
   one .rz, one .ret, word .jz, absent,
   word .cz, word .call, byte .aci, one (.rst 1)]

/-- The opcodes 0xD0 to 0xDF (R120). -/
def opcodeRowD : List OpcodeRow :=
  [one .rnc, one (.pop .de), word .jnc, byte .out,
   word .cnc, one (.push .de), byte .sui, one (.rst 2),
   one .rc, absent, word .jc, byte .inp,
   word .cc, absent, byte .sbi, one (.rst 3)]

/-- The opcodes 0xE0 to 0xEF (R120). -/
def opcodeRowE : List OpcodeRow :=
  [one .rpo, one (.pop .hl), word .jpo, one .xthl,
   word .cpo, one (.push .hl), byte .ani, one (.rst 4),
   one .rpe, one .pchl, word .jpe, one .xchg,
   word .cpe, absent, byte .xri, one (.rst 5)]

/-- The opcodes 0xF0 to 0xFF (R120). -/
def opcodeRowF : List OpcodeRow :=
  [one .rp, one (.pop .psw), word .jp, one .di,
   word .cp, one (.push .psw), byte .ori, one (.rst 6),
   one .rm, one .sphl, word .jm, one .ei,
   word .cm, absent, byte .cpi, one (.rst 7)]

/-- The opcode map (R120): sixteen rows by the high nibble, sixteen columns by the low nibble. -/
def opcodeTable : List (List OpcodeRow) :=
  [opcodeRow0, opcodeRow1, opcodeRow2, opcodeRow3, opcodeRow4, opcodeRow5, opcodeRow6, opcodeRow7,
   opcodeRow8, opcodeRow9, opcodeRowA, opcodeRowB, opcodeRowC, opcodeRowD, opcodeRowE, opcodeRowF]

/-- The table entry of an opcode byte (R152). -/
def opcodeRow (op : Byte) : OpcodeRow :=
  (opcodeTable.getD (op.toNat / 16) []).getD (op.toNat % 16) .absent

/-- Why bytes are not an instruction. -/
inductive DecodeError where
  /-- The opcode byte is one of the twelve without a table entry (R121). -/
  | absentOpcode (op : Byte)
  /-- The list of bytes ends before the instruction does; a fetch never meets this, since memory is total. -/
  | tooFewBytes
  deriving DecidableEq, Repr

/-- The instruction at the head of a list of bytes, and the bytes after it. Operands are low byte first (R117 to
R119). -/
def decode : List Byte → Except DecodeError (Instr × List Byte)
  | [] => .error .tooFewBytes
  | op :: rest =>
    match opcodeRow op, rest with
    | .absent, _ => .error (.absentOpcode op)
    | .one i, rest => .ok (i, rest)
    | .byte mk, d8 :: rest => .ok (mk d8, rest)
    | .byte _, [] => .error .tooFewBytes
    | .word mk, lo :: hi :: rest => .ok (mk (joinBytes hi lo), rest)
    | .word _, _ => .error .tooFewBytes

/-! ### The encoder -/

/-- The code of a register in `sss` and `ddd` (R112). -/
def Reg.code : Reg → BitVec 3
  | .b => 0b000
  | .c => 0b001
  | .d => 0b010
  | .e => 0b011
  | .h => 0b100
  | .l => 0b101
  | .a => 0b111

/-- The code of an operand in `sss` and `ddd`; 110 is M (R112). -/
def Operand.code : Operand → BitVec 3
  | .reg r => r.code
  | .m => 0b110

/-- The code of a pair in `rp` (R113). -/
def RegPair.code : RegPair → BitVec 2
  | .bc => 0b00
  | .de => 0b01
  | .hl => 0b10
  | .sp => 0b11

/-- The code of a pair in the `rp` of PUSH and POP (R113). -/
def StackPair.code : StackPair → BitVec 2
  | .bc => 0b00
  | .de => 0b01
  | .hl => 0b10
  | .psw => 0b11

/-- The code of a condition in `ccc` (R114). -/
def Cond.code : Cond → BitVec 3
  | .nz => 0b000
  | .z => 0b001
  | .nc => 0b010
  | .c => 0b011
  | .po => 0b100
  | .pe => 0b101
  | .p => 0b110
  | .m => 0b111

/-- The format `xx yyy zzz` of R111. -/
def opcodeXYZ (x : BitVec 2) (y z : BitVec 3) : Byte := x ++ y ++ z

/-- The format `xx rp zzzz` of R111. -/
def opcodeXPZ (x rp : BitVec 2) (z : BitVec 4) : Byte := x ++ rp ++ z

/-- The opcode byte of an instruction, by the formats of R111 and the field codes of R112 to R116. -/
def Instr.opcode : Instr → Byte
  -- ALU_R `10 ooo sss`, ALU_I `11 ooo 110`
  | .add src => opcodeXYZ 0b10 0b000 src.code
  | .adi _ => opcodeXYZ 0b11 0b000 0b110
  | .adc src => opcodeXYZ 0b10 0b001 src.code
  | .aci _ => opcodeXYZ 0b11 0b001 0b110
  | .sub src => opcodeXYZ 0b10 0b010 src.code
  | .sui _ => opcodeXYZ 0b11 0b010 0b110
  | .sbb src => opcodeXYZ 0b10 0b011 src.code
  | .sbi _ => opcodeXYZ 0b11 0b011 0b110
  | .ana src => opcodeXYZ 0b10 0b100 src.code
  | .ani _ => opcodeXYZ 0b11 0b100 0b110
  | .xra src => opcodeXYZ 0b10 0b101 src.code
  | .xri _ => opcodeXYZ 0b11 0b101 0b110
  | .ora src => opcodeXYZ 0b10 0b110 src.code
  | .ori _ => opcodeXYZ 0b11 0b110 0b110
  | .cmp src => opcodeXYZ 0b10 0b111 src.code
  | .cpi _ => opcodeXYZ 0b11 0b111 0b110
  -- INR_DCR `00 ddd 10f`, MVI `00 ddd 110`, MOV `01 ddd sss`
  | .inr dst => opcodeXYZ 0b00 dst.code 0b100
  | .dcr dst => opcodeXYZ 0b00 dst.code 0b101
  | .mvi dst _ => opcodeXYZ 0b00 dst.code 0b110
  | .mov dst src => opcodeXYZ 0b01 dst.code src.code
  -- RP_IMM16 and RP `00 rp zzzz`
  | .lxi pair _ => opcodeXPZ 0b00 pair.code 0b0001
  | .inx pair => opcodeXPZ 0b00 pair.code 0b0011
  | .dcx pair => opcodeXPZ 0b00 pair.code 0b1011
  | .dad pair => opcodeXPZ 0b00 pair.code 0b1001
  -- INDIRECT_RP `000 r zzzz`: r is the low bit of the pair code
  | .stax pair => opcodeXPZ 0b00 pair.code 0b0010
  | .ldax pair => opcodeXPZ 0b00 pair.code 0b1010
  -- DIRECT16
  | .shld _ => 0b00100010
  | .lhld _ => 0b00101010
  | .sta _ => 0b00110010
  | .lda _ => 0b00111010
  -- STACK_RP
  | .pop pair => opcodeXPZ 0b11 pair.code 0b0001
  | .push pair => opcodeXPZ 0b11 pair.code 0b0101
  -- COND_RET `11 ccc 000`
  | .rnz => opcodeXYZ 0b11 Cond.nz.code 0b000
  | .rz => opcodeXYZ 0b11 Cond.z.code 0b000
  | .rnc => opcodeXYZ 0b11 Cond.nc.code 0b000
  | .rc => opcodeXYZ 0b11 Cond.c.code 0b000
  | .rpo => opcodeXYZ 0b11 Cond.po.code 0b000
  | .rpe => opcodeXYZ 0b11 Cond.pe.code 0b000
  | .rp => opcodeXYZ 0b11 Cond.p.code 0b000
  | .rm => opcodeXYZ 0b11 Cond.m.code 0b000
  -- COND_JMP `11 ccc 010`
  | .jnz _ => opcodeXYZ 0b11 Cond.nz.code 0b010
  | .jz _ => opcodeXYZ 0b11 Cond.z.code 0b010
  | .jnc _ => opcodeXYZ 0b11 Cond.nc.code 0b010
  | .jc _ => opcodeXYZ 0b11 Cond.c.code 0b010
  | .jpo _ => opcodeXYZ 0b11 Cond.po.code 0b010
  | .jpe _ => opcodeXYZ 0b11 Cond.pe.code 0b010
  | .jp _ => opcodeXYZ 0b11 Cond.p.code 0b010
  | .jm _ => opcodeXYZ 0b11 Cond.m.code 0b010
  -- COND_CALL `11 ccc 100`
  | .cnz _ => opcodeXYZ 0b11 Cond.nz.code 0b100
  | .cz _ => opcodeXYZ 0b11 Cond.z.code 0b100
  | .cnc _ => opcodeXYZ 0b11 Cond.nc.code 0b100
  | .cc _ => opcodeXYZ 0b11 Cond.c.code 0b100
  | .cpo _ => opcodeXYZ 0b11 Cond.po.code 0b100
  | .cpe _ => opcodeXYZ 0b11 Cond.pe.code 0b100
  | .cp _ => opcodeXYZ 0b11 Cond.p.code 0b100
  | .cm _ => opcodeXYZ 0b11 Cond.m.code 0b100
  -- ABS16, RST `11 nnn 111`, PORT8
  | .jmp _ => 0b11000011
  | .call _ => 0b11001101
  | .rst n => opcodeXYZ 0b11 n 0b111
  | .out _ => 0b11010011
  | .inp _ => 0b11011011
  -- IMPLIED: fixed bytes, each from the Encoding line of its rule
  | .nop => 0b00000000
  | .rlc => 0b00000111
  | .rrc => 0b00001111
  | .ral => 0b00010111
  | .rar => 0b00011111
  | .daa => 0b00100111
  | .cma => 0b00101111
  | .stc => 0b00110111
  | .cmc => 0b00111111
  | .hlt => 0b01110110
  | .ret => 0b11001001
  | .xthl => 0b11100011
  | .pchl => 0b11101001
  | .xchg => 0b11101011
  | .di => 0b11110011
  | .sphl => 0b11111001
  | .ei => 0b11111011

/-- The operand bytes of an instruction, in instruction-stream order: none, `d8` or `p8`, or the low and the high byte
of `d16` or `a16` (R117 to R119). -/
def Instr.operandBytes : Instr → List Byte
  | .adi d8 | .aci d8 | .sui d8 | .sbi d8 | .cpi d8 | .ani d8 | .xri d8 | .ori d8 | .mvi _ d8 => [d8]
  | .inp p8 | .out p8 => [p8]
  | .lxi _ v | .lda v | .sta v | .lhld v | .shld v => [loByte v, hiByte v]
  | .jmp v | .jnz v | .jz v | .jnc v | .jc v | .jpo v | .jpe v | .jp v | .jm v => [loByte v, hiByte v]
  | .call v | .cnz v | .cz v | .cnc v | .cc v | .cpo v | .cpe v | .cp v | .cm v => [loByte v, hiByte v]
  | .add _ | .adc _ | .sub _ | .sbb _ | .cmp _ | .inr _ | .dcr _ | .daa | .ana _ | .xra _ | .ora _ => []
  | .cma | .cmc | .stc | .rlc | .rrc | .ral | .rar | .mov _ _ | .ldax _ | .stax _ | .xchg => []
  | .inx _ | .dcx _ | .dad _ | .push _ | .pop _ | .xthl | .sphl => []
  | .ret | .rnz | .rz | .rnc | .rc | .rpo | .rpe | .rp | .rm | .rst _ | .pchl => []
  | .nop | .hlt | .ei | .di => []

/-- The bytes of an instruction (R110). -/
def encode (i : Instr) : List Byte := i.opcode :: i.operandBytes

/-- The length of an instruction in bytes, the `length` of its table row (R110, R127). -/
def Instr.length (i : Instr) : Nat := 1 + i.operandBytes.length

/-- The bytes of a number, least significant first. -/
def bytesOfNat : Nat → Nat → List Byte
  | 0, _ => []
  | k + 1, w => BitVec.ofNat 8 w :: bytesOfNat k (w / 256)

/-- An instruction's bytes from the table's numbering: bit 0 is the least significant bit of the first byte, the bits
from `nbits` on are 0, and three bytes are laid out, the longest instruction (R110). -/
def tableWordBytes (nbits w : Nat) : List Byte := bytesOfNat 3 (w % 2 ^ nbits)

/-- The instruction the decoder reads from the bits `w` of a table row. -/
def decodeTableWord (nbits w : Nat) : Option Instr :=
  match decode (tableWordBytes nbits w) with
  | .ok (i, _) => some i
  | .error _ => none

end Sys2Proof
end

