-- ==== Sys2Proof/Config.lean ====
section
/-! DEFINITION. What an implementation of the CORE fixes: the named parameters of 00_scope.md R7 as plain data
(`Params`), and the values the spec leaves open, as constants without a body. -/

namespace Sys2Proof

/-- `AC_POLICY` (40_execute.md R164): which auxiliary carry SUB, SBB, CMP, their immediates, DCR and ANA leave. -/
inductive AcPolicy where
  | document
  | silicon8080
  deriving DecidableEq, Repr

/-- `ADMIT_GK` (40_execute.md R153): whether rows not described by the source document are executed. -/
inductive AdmitGk where
  | all
  | docOnly
  deriving DecidableEq, Repr

/-- `RESET_MODE` (70_reset_and_hazards.md R441): whether A to L, the flags and SP hold a value after reset. -/
inductive ResetMode where
  | zero
  | undefined
  deriving DecidableEq, Repr

/-- `IRQ_MODEL` (60_exceptions.md R410): whether the interrupt input exists. -/
inductive IrqModel where
  | rstAny
  | none
  deriving DecidableEq, Repr

/-- One row of `CYCLES` that differs from the default table (70_reset_and_hazards.md R456): the opcode byte, its
cycle count, and its count when the condition of a Ccc or Rcc is false (30_encoding.md R127). -/
structure CycleRow where
  opcode : Byte
  cycles : Nat
  altCycles : Nat
  deriving DecidableEq, Repr

/-- The parameters of the construction (70_reset_and_hazards.md R446). `HALT_IDLE_CYCLES` is `Config.haltIdleCycles`;
`INITIAL_MEMORY` is an argument of `State.construct`. -/
structure Params where
  acPolicy : AcPolicy
  admitGk : AdmitGk
  resetMode : ResetMode
  irqModel : IrqModel
  /-- The rows in which `CYCLES` differs from its default (log 12). -/
  cycleRows : List CycleRow
  deriving DecidableEq, Repr

/-- The default of every parameter (92_eei_decisions.md D4, D5, D11, D17, D18). -/
def Params.default : Params where
  acPolicy := .document
  admitGk := .all
  resetMode := .zero
  irqModel := .rstAny
  cycleRows := []

/-- FREE VALUE (20_memory.md R88, log 9): the byte the environment answers to the `n`-th `IoIn` when no answer is
listed in the state. Any byte, unconstrained: it has no body. -/
opaque Config.ioDraw : Nat → Byte

/-- `HALT_IDLE_CYCLES` (47_machine_control.md R372), which the spec leaves OPEN (log 11): it has no body. -/
opaque Config.haltIdleCycles : Nat

end Sys2Proof
end

