-- ==== Sys2Proof/Machine/State.lean ====
section
/-! DEFINITION. The state of the CORE as plain data (10_state.md R53), with the parameters of its construction and the
environment's side of its interfaces, the reasons a step can stop, and the state after reset (10_state.md R50). -/

namespace Sys2Proof.Machine

/-- The seven byte registers (10_state.md R30). F is `Flags`; the pairs are views (R32). -/
structure Regs where
  a : Byte
  b : Byte
  c : Byte
  d : Byte
  e : Byte
  h : Byte
  l : Byte
  deriving DecidableEq, Repr

/-- The five flags of F (10_state.md R35). Bits 5, 3 and 1 of F are not stored (R36). -/
structure Flags where
  s : Bool
  z : Bool
  ac : Bool
  p : Bool
  cy : Bool
  deriving DecidableEq, Repr

/-- The name of a flag (10_state.md R35). -/
inductive Flag where
  | s | z | ac | p | cy
  deriving DecidableEq, Repr

/-- A piece of state that holds no value after reset under `RESET_MODE = undefined` (10_state.md R50). -/
inductive Loc where
  | reg (r : Reg)
  | flag (f : Flag)
  | sp
  deriving DecidableEq, Repr

/-- All the pieces of state of `Loc`. -/
def Loc.all : List Loc :=
  [.reg .a, .reg .b, .reg .c, .reg .d, .reg .e, .reg .h, .reg .l,
   .flag .s, .flag .z, .flag .ac, .flag .p, .flag .cy, .sp]

/-- The byte memory (20_memory.md R70) as (address, byte) pairs, addresses strictly rising, none listed with the byte
an unlisted address reads as (`Memory.wf`). -/
abbrev Memory := List Host.Cell

/-- The kind of a fatal fault, with the spec's code (60_exceptions.md R400, R401, R405). -/
inductive FaultKind where
  /-- Kind 1: the opcode byte has no row. -/
  | unrecognizedOpcode
  /-- Kind 2: a handler does not know the operand case of its opcode. -/
  | unhandledOperand
  /-- Kind 3, only under `RESET_MODE = undefined`: a read of a register or flag that holds no value. -/
  | uninitializedRead
  deriving DecidableEq, Repr

/-- The record a fault leaves in `fault` (60_exceptions.md R402): the kind, the opcode byte and its address. -/
structure FaultRecord where
  kind : FaultKind
  op : Byte
  pc : Word
  deriving DecidableEq, Repr

/-- An event at the I/O interface (20_memory.md R88, R89). -/
inductive IoEvent where
  | inp (port value : Byte)
  | out (port value : Byte)
  deriving DecidableEq, Repr

/-- What the environment will do (70_reset_and_hazards.md R446), as plain data (log 9, log 10). -/
structure Environment where
  /-- The interrupt request presented at the start of each coming step, first to come first; nothing presented when
  the list has run out. -/
  requests : List (Option (BitVec 3))
  /-- The answers to the coming `IoIn` calls; when the list has run out, the answer is a free value. -/
  inputs : List Byte
  /-- How many `IoIn` calls have been made. -/
  draws : Nat
  deriving DecidableEq, Repr

/-- The environment that presents no request and lists no answer. -/
def Environment.silent : Environment where
  requests := []
  inputs := []
  draws := 0

/-- The complete state (10_state.md R53), then the parameters (00_scope.md R7) and the model's own fields. -/
structure State where
  /-- A, B, C, D, E, H, L (R30). -/
  regs : Regs
  /-- S, Z, AC, P, CY (R35). -/
  flags : Flags
  /-- The address of the next byte to fetch (R40). -/
  pc : Word
  /-- The top of the descending stack (R42). -/
  sp : Word
  /-- INTE, interrupt enable (R45). -/
  inte : Bool
  /-- EI_SHADOW, set from EI to the end of the next instruction (R46). -/
  eiShadow : Bool
  /-- halted, set by HLT (R47). -/
  halted : Bool
  /-- fault, the record of a fatal fault (R48). -/
  fault : Option FaultRecord
  /-- The refused mark of `ADMIT_GK = doc_only` (R53, 40_execute.md R153). -/
  refusedMark : Bool
  /-- Mem[0..65535] (R53). -/
  mem : Memory
  /-- The registers and flags that hold no value since reset; empty under `RESET_MODE = zero` (R50). -/
  unset : List Loc
  /-- The parameters this machine was constructed with; no step changes them (log 2). -/
  params : Params
  /-- MODEL'S OWN: the environment's side of the interfaces. -/
  env : Environment
  /-- MODEL'S OWN: the I/O events so far, oldest first (log 13). -/
  events : List IoEvent
  /-- MODEL'S OWN: the cycle count the last completed step returned (40_execute.md R155, log 12). -/
  cycles : Nat
  deriving DecidableEq, Repr

/-- Why a step ends in a fault. Each reason carries the record's opcode byte and address, and the state the fault
leaves (60_exceptions.md R402), which the outcome has no other place for (log 6). -/
inductive Fault where
  /-- Raised by a step whose fetched opcode byte has no row (R400), and by every later step. Safe. -/
  | unrecognizedOpcode (op : Byte) (pc : Word) (left : State)
  /-- Raised by the meaning of MOV, LDAX and STAX on a term that no opcode byte stands for (R401, log 8), and by every
  step from a state with such a record. Safe. -/
  | unhandledOperand (op : Byte) (pc : Word) (left : State)
  /-- Raised under `RESET_MODE = undefined` by a step that reads a register or flag holding no value (R405), and by
  every later step. Safe. -/
  | uninitializedRead (op : Byte) (pc : Word) (left : State)
  deriving DecidableEq, Repr

/-- Why a step is refused. -/
inductive Refusal where
  /-- An instruction without a meaning in the model: no arm of `exec` answers so. Safe. -/
  | notModelled (mnemonic : String)
  /-- Answered under `ADMIT_GK = doc_only` by a step that fetches a row whose semantics are not the source document's
  (40_execute.md R153); carries the opcode byte and the state left. Safe. -/
  | docOnly (op : Byte) (left : State)
  /-- Answered by every step from a state with the refused mark: no step follows a refusal (R153, log 7). Safe. -/
  | afterRefusal
  deriving DecidableEq, Repr

/-- The registers and flags without a value after reset (10_state.md R50). -/
def ResetMode.unset : ResetMode → List Loc
  | .zero => []
  | .undefined => Loc.all

/-- Reset is construction (70_reset_and_hazards.md R440): the values of 10_state.md R50 for given parameters, with the
memory the loader has filled (`INITIAL_MEMORY`) and an environment. Under `RESET_MODE = undefined` the zeros of A to L,
the flags and SP are place holders that no step reads (log 4). -/
def State.construct (params : Params) (mem : Memory) (env : Environment) : State where
  regs := { a := 0#8, b := 0#8, c := 0#8, d := 0#8, e := 0#8, h := 0#8, l := 0#8 }
  flags := { s := false, z := false, ac := false, p := false, cy := false }
  pc := 0#16
  sp := 0#16
  inte := false
  eiShadow := false
  halted := false
  fault := none
  refusedMark := false
  mem := mem
  unset := ResetMode.unset params.resetMode
  params := params
  env := env
  events := []
  cycles := 0

/-- The machine right after reset: the default parameters, no byte of memory listed, a silent environment. -/
def State.reset : State :=
  State.construct Params.default [] Environment.silent

end Sys2Proof.Machine
end

