-- ==== Sys2Proof/Machine/Memory.lean ====
section
/-! DEFINITION. The memory array (20_memory.md R70 to R73) as a list of cells in canonical form. -/

namespace Sys2Proof.Machine

/-- What an address reads as when nothing is listed for it (log 1). -/
def Memory.blank : Byte := 0#8

/-- The byte at an address. -/
def Memory.get : Memory → Nat → Byte
  | [], _ => Memory.blank
  | (k, v) :: m, a => if k = a then v else Memory.get m a

/-- The memory with nothing listed at `a`. -/
def Memory.erase : Memory → Nat → Memory
  | [], _ => []
  | (k, v) :: m, a => if k = a then Memory.erase m a else (k, v) :: Memory.erase m a

/-- The memory with a cell put before the first larger address. -/
def Memory.insert : Memory → Nat → Byte → Memory
  | [], a, v => [(a, v)]
  | (k, w) :: m, a, v => if a < k then (a, v) :: (k, w) :: m else (k, w) :: Memory.insert m a v

/-- The memory with `v` stored at `a`; storing what an unlisted address reads as lists nothing. -/
def Memory.put (m : Memory) (a : Nat) (v : Byte) : Memory :=
  if v = Memory.blank then Memory.erase m a else Memory.insert (Memory.erase m a) a v

/-- `MemRead(addr, 1)` (R70). -/
def Memory.read (m : Memory) (addr : Word) : Byte := Memory.get m addr.toNat

/-- `MemWrite(addr, 1, v)` (R71). -/
def Memory.write (m : Memory) (addr : Word) (v : Byte) : Memory := Memory.put m addr.toNat v

/-- Every address listed is `lo` or more, they rise strictly, none lies outside the address space, and no cell is listed
with the byte an unlisted address reads as. -/
def Memory.wfFrom : Nat → Memory → Bool
  | _, [] => true
  | lo, (k, v) :: m =>
    decide (lo ≤ k) && decide (k < 65536) && decide (v ≠ Memory.blank) && Memory.wfFrom (k + 1) m

/-- The canonical form of memory: equal memories are equal lists. -/
def Memory.wf (m : Memory) : Bool := Memory.wfFrom 0 m

end Sys2Proof.Machine
end

