-- ==== Sys2Proof/Machine/Ops.lean ====
section
/-! DEFINITION. The named operations over registers, flags and memory (00_scope.md R9): the one place where each is
read or written; the stack and I/O primitives; raising a fault; interrupt acceptance and the return of the PC. -/

namespace Sys2Proof.Machine

/-! ### Registers and flags -/

/-- `x[r]`. -/
def Regs.get (g : Regs) : Reg → Byte
  | .a => g.a
  | .b => g.b
  | .c => g.c
  | .d => g.d
  | .e => g.e
  | .h => g.h
  | .l => g.l

/-- `x[r] <- v`. -/
def Regs.set (g : Regs) (r : Reg) (v : Byte) : Regs :=
  match r with
  | .a => { g with a := v }
  | .b => { g with b := v }
  | .c => { g with c := v }
  | .d => { g with d := v }
  | .e => { g with e := v }
  | .h => { g with h := v }
  | .l => { g with l := v }

/-- `flag.X`. -/
def Flags.get (g : Flags) : Flag → Bool
  | .s => g.s
  | .z => g.z
  | .ac => g.ac
  | .p => g.p
  | .cy => g.cy

/-- `flag.X <- b`. -/
def Flags.set (g : Flags) (f : Flag) (b : Bool) : Flags :=
  match f with
  | .s => { g with s := b }
  | .z => { g with z := b }
  | .ac => { g with ac := b }
  | .p => { g with p := b }
  | .cy => { g with cy := b }

/-- The marks that remain when `l` has been given a value (60_exceptions.md R405). -/
def Loc.define (l : Loc) (unset : List Loc) : List Loc := unset.filter (fun k => decide (k ≠ l))

/-- `x[r]` (R9). -/
def State.reg (s : State) (r : Reg) : Byte := s.regs.get r

/-- `x[r] <- v` (R9). -/
def State.setReg (s : State) (r : Reg) (v : Byte) : State :=
  { s with regs := s.regs.set r v, unset := Loc.define (.reg r) s.unset }

/-- `flag.X` (R9). -/
def State.flag (s : State) (f : Flag) : Bool := s.flags.get f

/-- `flag.X <- b` (R9). -/
def State.setFlag (s : State) (f : Flag) (b : Bool) : State :=
  { s with flags := s.flags.set f b, unset := Loc.define (.flag f) s.unset }

/-- `PC <- v` (R9). -/
def State.setPc (s : State) (v : Word) : State := { s with pc := v }

/-- `SP <- v` (R9). -/
def State.setSp (s : State) (v : Word) : State :=
  { s with sp := v, unset := Loc.define .sp s.unset }

/-- The flag byte `Fbyte` (10_state.md R36): S Z 0 AC 0 P 1 CY, from bit 7 down. -/
def Flags.toByte (g : Flags) : Byte :=
  BitVec.ofBool g.s ++ BitVec.ofBool g.z ++ 0#1 ++ BitVec.ofBool g.ac
    ++ 0#1 ++ BitVec.ofBool g.p ++ 1#1 ++ BitVec.ofBool g.cy

/-! ### Memory -/

/-- `MemRead(addr, 1)` (20_memory.md R70). -/
def State.read (s : State) (addr : Word) : Byte := s.mem.read addr

/-- `MemWrite(addr, 1, v)` (20_memory.md R71). -/
def State.write (s : State) (addr : Word) (v : Byte) : State := { s with mem := s.mem.write addr v }

/-- The 16-bit value at `addr`: two byte reads, low byte first (20_memory.md R74, R75). -/
def State.readWord (s : State) (addr : Word) : Word := joinBytes (s.read (addr + 1#16)) (s.read addr)

/-- The 16-bit value stored at `addr`: two byte writes, the low byte first (20_memory.md R74, R75). -/
def State.writeWord (s : State) (addr : Word) (v : Word) : State :=
  (s.write addr (loByte v)).write (addr + 1#16) (hiByte v)

/-- The bytes of a program image put into memory from `addr` on, by the loader (70_reset_and_hazards.md R442). -/
def State.load (s : State) (addr : Word) : List Byte → State
  | [] => s
  | b :: bs => (s.write addr b).load (addr + 1#16) bs

/-! ### The stack (20_memory.md R80 to R82) -/

/-- `Push8(v)`: decrement SP, then write (R82). -/
def State.push8 (s : State) (v : Byte) : State := (s.setSp (s.sp - 1#16)).write (s.sp - 1#16) v

/-- `Push16(v)`: the high byte, then the low byte (R80). -/
def State.push16 (s : State) (v : Word) : State := (s.push8 (hiByte v)).push8 (loByte v)

/-- The word `Pop16()` returns: the low byte at SP, the high byte above it (R81). -/
def State.top16 (s : State) : Word := s.readWord s.sp

/-- What `Pop16()` leaves of SP (R81). -/
def State.drop16 (s : State) : State := s.setSp (s.sp + 2#16)

/-! ### The I/O interface (20_memory.md R88 to R90) -/

/-- The byte the environment answers to the next `IoIn`: the next listed answer, else a free value (R88, log 9). -/
def State.ioAnswer (s : State) : Byte :=
  match s.env.inputs with
  | v :: _ => v
  | [] => Config.ioDraw s.env.draws

/-- `IoIn(port)` (R88): one answer is used up and recorded as an event. -/
def State.ioIn (s : State) (port : Byte) : State :=
  { s with
    env := { s.env with inputs := s.env.inputs.tail, draws := s.env.draws + 1 }
    events := s.events ++ [.inp port s.ioAnswer] }

/-- `IoOut(port, v)` (R89): one event. -/
def State.ioOut (s : State) (port v : Byte) : State := { s with events := s.events ++ [.out port v] }

/-! ### Faults (60_exceptions.md R400 to R406) -/

/-- The fault reason that goes with a record and the state it leaves. -/
def FaultRecord.toFault (r : FaultRecord) (left : State) : Fault :=
  match r.kind with
  | .unrecognizedOpcode => .unrecognizedOpcode r.op r.pc left
  | .unhandledOperand => .unhandledOperand r.op r.pc left
  | .uninitializedRead => .uninitializedRead r.op r.pc left

/-- The spec's code of a fault kind (92_eei_decisions.md D25). -/
def FaultKind.code : FaultKind → Nat
  | .unrecognizedOpcode => 1
  | .unhandledOperand => 2
  | .uninitializedRead => 3

/-- The state a fault of the instruction at PC leaves (R402): the record, with PC advanced past the opcode byte. -/
def State.faulted (s : State) (kind : FaultKind) (op : Byte) : State :=
  { s with fault := some { kind := kind, op := op, pc := s.pc }, pc := s.pc + 1#16 }

/-- A fault raised by the instruction at PC (R402). -/
def raise (kind : FaultKind) (op : Byte) (s : State) : Host.Outcome State Fault Refusal :=
  .fault (FaultRecord.toFault { kind := kind, op := op, pc := s.pc } (s.faulted kind op))

/-! ### Interrupts (60_exceptions.md R410 to R416) -/

/-- The address of restart and interrupt vector `n`: `8 * n` (46_control_flow.md R348). -/
def vector (n : BitVec 3) : Word := n.setWidth 16 * 8#16

/-- `Push16(PC); PC <- 8n`, which RST and interrupt acceptance share (46_control_flow.md R348, R411). -/
def State.restart (s : State) (n : BitVec 3) : State := (s.push16 s.pc).setPc (vector n)

/-- The state after interrupt acceptance with vector `n` (R411). -/
def State.interrupted (s : State) (n : BitVec 3) : State :=
  ({ s with inte := false, halted := false } : State).restart n

/-- `PC <- Pop16()`: the return from a call and from an interrupt handler (R414, 46_control_flow.md R339). -/
def State.returned (s : State) : State := s.drop16.setPc s.top16

/-- The request presented at the start of this step, if any (R410, log 10). -/
def State.request (s : State) : Option (BitVec 3) := s.env.requests.head?.join

/-- The state once the interrupt input of this step has been sampled: the block remembers no request (R410). -/
def State.sampled (s : State) : State :=
  { s with env := { s.env with requests := s.env.requests.tail } }

/-- A presented request is accepted (R411). -/
def State.acceptsInterrupt (s : State) : Bool :=
  decide (s.params.irqModel = .rstAny) && s.inte && !s.eiShadow

end Sys2Proof.Machine
end

