-- ==== Sys2Proof/Machine/Operands.lean ====
section
/-! DEFINITION. The operand forms: the 3-bit register fields (40_execute.md R157), the pair fields (30_encoding.md
R113), and the conditions (46_control_flow.md R320). -/

namespace Sys2Proof.Machine

/-- `x[rp]`, or SP: the pair views have the first-named register in the high half (10_state.md R32). -/
def State.pair (s : State) : RegPair → Word
  | .bc => joinBytes (s.reg .b) (s.reg .c)
  | .de => joinBytes (s.reg .d) (s.reg .e)
  | .hl => joinBytes (s.reg .h) (s.reg .l)
  | .sp => s.sp

/-- `x[rp] <- v`, or `SP <- v` (10_state.md R33). -/
def State.setPair (s : State) (rp : RegPair) (v : Word) : State :=
  match rp with
  | .bc => (s.setReg .b (hiByte v)).setReg .c (loByte v)
  | .de => (s.setReg .d (hiByte v)).setReg .e (loByte v)
  | .hl => (s.setReg .h (hiByte v)).setReg .l (loByte v)
  | .sp => s.setSp v

/-- The word PUSH pushes: BC, DE, HL, or A and the flag byte (45_stack.md R300, R301). -/
def State.stackPair (s : State) : StackPair → Word
  | .bc => s.pair .bc
  | .de => s.pair .de
  | .hl => s.pair .hl
  | .psw => joinBytes (s.reg .a) s.flags.toByte

/-- The five flags from a popped byte; its bits 5, 3 and 1 are discarded (45_stack.md R303). -/
def State.setFlagByte (s : State) (b : Byte) : State :=
  ((((s.setFlag .s (b.getLsbD 7)).setFlag .z (b.getLsbD 6)).setFlag .ac (b.getLsbD 4)).setFlag .p
    (b.getLsbD 2)).setFlag .cy (b.getLsbD 0)

/-- What POP does with the popped word (45_stack.md R302, R303). -/
def State.setStackPair (s : State) (rp : StackPair) (v : Word) : State :=
  match rp with
  | .bc => s.setPair .bc v
  | .de => s.setPair .de v
  | .hl => s.setPair .hl v
  | .psw => (s.setReg .a (hiByte v)).setFlagByte (loByte v)

/-- `Src(sss)`: a register, or the byte at address HL (40_execute.md R157). -/
def State.src (s : State) : Operand → Byte
  | .reg r => s.reg r
  | .m => s.read (s.pair .hl)

/-- `Dst(ddd) <- v`: a register, or the byte at address HL (40_execute.md R157). -/
def State.setDst (s : State) (dst : Operand) (v : Byte) : State :=
  match dst with
  | .reg r => s.setReg r v
  | .m => s.write (s.pair .hl) v

/-- `cond(ccc)` (46_control_flow.md R320). -/
def State.holds (s : State) : Cond → Bool
  | .nz => !s.flag .z
  | .z => s.flag .z
  | .nc => !s.flag .cy
  | .c => s.flag .cy
  | .po => !s.flag .p
  | .pe => s.flag .p
  | .p => !s.flag .s
  | .m => s.flag .s

/-- The flag a condition tests (46_control_flow.md R320). -/
def Cond.tests : Cond → Flag
  | .nz | .z => .z
  | .nc | .c => .cy
  | .po | .pe => .p
  | .p | .m => .s

/-! ### Transfers of control shared by the conditional families -/

/-- A jump: `PC <- a` (46_control_flow.md R321). -/
def State.jump (s : State) (a : Word) : State := s.setPc a

/-- A call: `Push16(PC); PC <- a` (46_control_flow.md R330). -/
def State.call (s : State) (a : Word) : State := (s.push16 s.pc).setPc a

/-- The transfer is made only if the condition holds. -/
def State.doIf (s : State) (cond : Cond) (transfer : State → State) : State :=
  if s.holds cond then transfer s else s

end Sys2Proof.Machine
end

