-- ==== Sys2Proof/Machine/Flags.lean ====
section
/-! DEFINITION. The pure ALU functions and the flag computations (40_execute.md R160 to R167), the decimal adjustment
(41_arithmetic.md R210) and the rotations (42_logical_rotate.md R245 to R248), with the shared operations that write
their results. -/

namespace Sys2Proof.Machine

/-- `popcount(v)`: the number of 1 bits (00_scope.md R8). -/
def popcount (v : Byte) : Nat := ((List.range 8).map (fun i => (v.getLsbD i).toNat)).sum

/-- Parity flag of a result: an even number of 1 bits (40_execute.md R160). -/
def evenParity (v : Byte) : Bool := decide (popcount v % 2 = 0)

/-- The low nibble of a byte, `v & 0x0F`. -/
def lowNibble (v : Byte) : Nat := v.toNat % 16

/-- The high nibble of a byte, `v[7:4]`. -/
def highNibble (v : Byte) : Nat := v.toNat / 16

/-- What an ALU function returns: the result, the carry and the auxiliary carry. -/
structure AluResult where
  res : Byte
  cy : Bool
  ac : Bool
  deriving DecidableEq, Repr

/-- `Add8(a, b, cin)` (R162). -/
def add8 (a b : Byte) (cin : Bool) : AluResult :=
  let t := a.toNat + b.toNat + cin.toNat
  { res := BitVec.ofNat 8 t
    cy := decide (t > 255)
    ac := decide (lowNibble a + lowNibble b + cin.toNat > 15) }

/-- The auxiliary carry of `Sub8` under a policy (R163, R164). -/
def subAc (policy : AcPolicy) (a b : Byte) (bin : Bool) : Bool :=
  match policy with
  | .document => decide (lowNibble a < lowNibble b + bin.toNat)
  | .silicon8080 => decide (lowNibble a ≥ lowNibble b + bin.toNat)

/-- `Sub8(a, b, bin)` (R163, R164). -/
def sub8 (policy : AcPolicy) (a b : Byte) (bin : Bool) : AluResult where
  res := a - b - (BitVec.ofBool bin).setWidth 8
  cy := decide (a.toNat < b.toNat + bin.toNat)
  ac := subAc policy a b bin

/-- The auxiliary carry of `Inc8`, from its result (R165). -/
def incAc (res : Byte) : Bool := decide (lowNibble res = 0)

/-- The auxiliary carry of `Dec8`, from its result, under a policy (R166, R164). -/
def decAc (policy : AcPolicy) (res : Byte) : Bool :=
  match policy with
  | .document => decide (lowNibble res = 15)
  | .silicon8080 => decide (lowNibble res ≠ 15)

/-- The auxiliary carry of ANA under a policy (R167, R164). -/
def andAc (policy : AcPolicy) (a b : Byte) : Bool :=
  match policy with
  | .document => false
  | .silicon8080 => (a ||| b).getLsbD 3

/-- `Logic8(AND, a, b)` (R167). -/
def and8 (policy : AcPolicy) (a b : Byte) : AluResult where
  res := a &&& b
  cy := false
  ac := andAc policy a b

/-- `Logic8(XOR, a, b)` (R167). -/
def xor8 (a b : Byte) : AluResult where
  res := a ^^^ b
  cy := false
  ac := false

/-- `Logic8(OR, a, b)` (R167). -/
def or8 (a b : Byte) : AluResult where
  res := a ||| b
  cy := false
  ac := false

/-- DAA step 1 (41_arithmetic.md R210): the low-nibble correction, taken when AC is set or the low nibble exceeds 9. -/
def daaLow (a : Byte) (ac cy : Bool) : AluResult :=
  if ac = true ∨ lowNibble a > 9 then
    { res := BitVec.ofNat 8 (a.toNat + 6)
      cy := cy || decide (a.toNat + 6 > 255)
      ac := decide (lowNibble a + 6 > 15) }
  else { res := a, cy := cy, ac := ac }

/-- DAA step 2 (41_arithmetic.md R210): the high-nibble correction of step 1's result, taken when CY is set or the high
nibble exceeds 9. -/
def daaHigh (r : AluResult) : AluResult :=
  if r.cy = true ∨ highNibble r.res > 9 then
    { res := BitVec.ofNat 8 ((highNibble r.res + 6) % 16 * 16 + lowNibble r.res)
      cy := r.cy || decide (highNibble r.res + 6 > 15)
      ac := r.ac }
  else r

/-- The decimal adjustment of A with the flags AC and CY (41_arithmetic.md R210). -/
def daa8 (a : Byte) (ac cy : Bool) : AluResult := daaHigh (daaLow a ac cy)

/-! ### Rotations (42_logical_rotate.md): the rotated byte -/

/-- `a[6:0] ++ b`. -/
def rotateIntoLow (a : Byte) (b : Bool) : Byte := a.extractLsb' 0 7 ++ BitVec.ofBool b

/-- `b ++ a[7:1]`. -/
def rotateIntoHigh (a : Byte) (b : Bool) : Byte := BitVec.ofBool b ++ a.extractLsb' 1 7

/-! ### Writing flags and results -/

/-- `szp(v)`: S, Z and P from a result (R160). -/
def State.szp (s : State) (v : Byte) : State :=
  ((s.setFlag .s (v.getLsbD 7)).setFlag .z (decide (v = 0#8))).setFlag .p (evenParity v)

/-- All five flags from an ALU result: `flag.CY <- cy; flag.AC <- ac; szp(res)`. -/
def State.aluFlags (s : State) (r : AluResult) : State := ((s.setFlag .cy r.cy).setFlag .ac r.ac).szp r.res

/-- A and all five flags from an ALU result. -/
def State.alu (s : State) (r : AluResult) : State := (s.setReg .a r.res).aluFlags r

/-- `A <- Add8(A, v, cin)` (41_arithmetic.md R180 to R185). -/
def State.addA (s : State) (v : Byte) (cin : Bool) : State := s.alu (add8 (s.reg .a) v cin)

/-- `A <- Sub8(A, v, bin)` (41_arithmetic.md R186 to R191). -/
def State.subA (s : State) (v : Byte) (bin : Bool) : State :=
  s.alu (sub8 s.params.acPolicy (s.reg .a) v bin)

/-- The flags of `Sub8(A, v, 0)`, with A unchanged (41_arithmetic.md R192 to R194). -/
def State.cmpA (s : State) (v : Byte) : State :=
  s.aluFlags (sub8 s.params.acPolicy (s.reg .a) v false)

/-- `A <- A & v` (42_logical_rotate.md R230 to R232). -/
def State.andA (s : State) (v : Byte) : State := s.alu (and8 s.params.acPolicy (s.reg .a) v)

/-- `A <- A ^ v` (42_logical_rotate.md R233 to R235). -/
def State.xorA (s : State) (v : Byte) : State := s.alu (xor8 (s.reg .a) v)

/-- `A <- A | v` (42_logical_rotate.md R236 to R238). -/
def State.orA (s : State) (v : Byte) : State := s.alu (or8 (s.reg .a) v)

/-- INR: the operand plus 1, AC, S, Z and P; CY is not written (41_arithmetic.md R200, R201). -/
def State.increment (s : State) (dst : Operand) : State :=
  ((s.setDst dst (s.src dst + 1#8)).setFlag .ac (incAc (s.src dst + 1#8))).szp (s.src dst + 1#8)

/-- DCR: the operand minus 1, AC, S, Z and P; CY is not written (41_arithmetic.md R204, R205). -/
def State.decrement (s : State) (dst : Operand) : State :=
  ((s.setDst dst (s.src dst - 1#8)).setFlag .ac (decAc s.params.acPolicy (s.src dst - 1#8))).szp (s.src dst - 1#8)

/-- A rotation: A and CY only (42_logical_rotate.md R245 to R248). -/
def State.rotate (s : State) (res : Byte) (cy : Bool) : State := (s.setFlag .cy cy).setReg .a res

/-- DAD: `HL <- HL + v`, CY from the carry out of bit 15 (44_register_pair.md R292). -/
def State.addHl (s : State) (v : Word) : State :=
  (s.setPair .hl (s.pair .hl + v)).setFlag .cy (decide ((s.pair .hl).toNat + v.toNat > 65535))

end Sys2Proof.Machine
end

