-- ==== Sys2Proof/Machine/Table.lean ====
section
/-! DEFINITION. What the opcode table says of a row besides its encoding (30_encoding.md R125, R127): the source of its
semantics and its cycle counts; and `completes`, the frame every instruction's rule stands in (40_execute.md R150). -/

namespace Sys2Proof.Machine

/-- The `semantics_source` of a row (30_encoding.md R125). -/
inductive Semantics where
  | doc
  | docPartial
  | generalKnowledge
  deriving DecidableEq, Repr

/-- The `semantics_source` of an instruction's row in spec/opcode_table.json. -/
def semanticsOf : Instr → Semantics
  | .add _ | .adi _ | .adc _ | .aci _ | .sub _ | .sui _ | .sbb _ | .sbi _ | .cmp _ | .cpi _ => .doc
  | .inr _ | .dcr _ | .daa => .doc
  | .ana _ | .ani _ | .xra _ | .xri _ | .ora _ | .ori _ => .doc
  | .cma | .cmc | .stc | .rlc | .rrc | .ral | .rar => .doc
  | .mov _ _ | .ldax _ | .stax _ | .nop => .doc
  | .xchg | .inx _ | .dcx _ | .dad _ | .push _ | .pop _ | .xthl | .sphl => .docPartial
  | .jmp _ | .jnz _ | .jz _ | .jnc _ | .jc _ | .jpo _ | .jpe _ | .jp _ | .jm _ => .docPartial
  | .call _ | .cnz _ | .cz _ | .cnc _ | .cc _ | .cpo _ | .cpe _ | .cp _ | .cm _ => .docPartial
  | .ret | .rnz | .rz | .rnc | .rc | .rpo | .rpe | .rp | .rm => .docPartial
  | .hlt | .ei | .di => .docPartial
  | .mvi _ _ | .lxi _ _ | .lda _ | .sta _ | .lhld _ | .shld _ => .generalKnowledge
  | .rst _ | .pchl | .inp _ | .out _ => .generalKnowledge

/-- One count for a register operand, one for M. -/
def Operand.count (o : Operand) (register memory : Nat) : Nat :=
  match o with
  | .reg _ => register
  | .m => memory

/-- The count of a MOV row (70_reset_and_hazards.md R456). -/
def movCount : Operand → Operand → Nat
  | .reg _, .reg _ => 5
  | .reg _, .m => 7
  | .m, _ => 7

/-- The default of `CYCLES` (70_reset_and_hazards.md R456). -/
def defaultCycles : Instr → Nat
  | .add src | .adc src | .sub src | .sbb src | .ana src | .xra src | .ora src | .cmp src =>
    Operand.count src 4 7
  | .adi _ | .aci _ | .sui _ | .sbi _ | .ani _ | .xri _ | .ori _ | .cpi _ => 7
  | .inr dst | .dcr dst => Operand.count dst 5 10
  | .daa | .cma | .cmc | .stc | .rlc | .rrc | .ral | .rar => 4
  | .mov dst src => movCount dst src
  | .mvi dst _ => Operand.count dst 7 10
  | .lxi _ _ => 10
  | .lda _ | .sta _ => 13
  | .lhld _ | .shld _ => 16
  | .ldax _ | .stax _ => 7
  | .xchg => 4
  | .inx _ | .dcx _ => 5
  | .dad _ => 10
  | .push _ => 11
  | .pop _ => 10
  | .xthl => 18
  | .sphl => 5
  | .jmp _ | .jnz _ | .jz _ | .jnc _ | .jc _ | .jpo _ | .jpe _ | .jp _ | .jm _ => 10
  | .call _ | .cnz _ | .cz _ | .cnc _ | .cc _ | .cpo _ | .cpe _ | .cp _ | .cm _ => 17
  | .ret => 10
  | .rnz | .rz | .rnc | .rc | .rpo | .rpe | .rp | .rm => 11
  | .rst _ => 11
  | .pchl => 5
  | .nop | .ei | .di => 4
  | .hlt => 7
  | .inp _ | .out _ => 10

/-- The default `alt_cycles` of the Ccc and Rcc rows, with their condition; none for every other row (R127, R456). -/
def altCycles : Instr → Option (Cond × Nat)
  | .cnz _ => some (.nz, 11)
  | .cz _ => some (.z, 11)
  | .cnc _ => some (.nc, 11)
  | .cc _ => some (.c, 11)
  | .cpo _ => some (.po, 11)
  | .cpe _ => some (.pe, 11)
  | .cp _ => some (.p, 11)
  | .cm _ => some (.m, 11)
  | .rnz => some (.nz, 5)
  | .rz => some (.z, 5)
  | .rnc => some (.nc, 5)
  | .rc => some (.c, 5)
  | .rpo => some (.po, 5)
  | .rpe => some (.pe, 5)
  | .rp => some (.p, 5)
  | .rm => some (.m, 5)
  | .add _ | .adi _ | .adc _ | .aci _ | .sub _ | .sui _ | .sbb _ | .sbi _ | .cmp _ | .cpi _ => none
  | .inr _ | .dcr _ | .daa => none
  | .ana _ | .ani _ | .xra _ | .xri _ | .ora _ | .ori _ => none
  | .cma | .cmc | .stc | .rlc | .rrc | .ral | .rar => none
  | .mov _ _ | .mvi _ _ | .lxi _ _ | .lda _ | .sta _ | .lhld _ | .shld _ => none
  | .ldax _ | .stax _ | .xchg | .inx _ | .dcx _ | .dad _ | .push _ | .pop _ | .xthl | .sphl => none
  | .jmp _ | .jnz _ | .jz _ | .jnc _ | .jc _ | .jpo _ | .jpe _ | .jp _ | .jm _ => none
  | .call _ | .ret | .rst _ | .pchl => none
  | .nop | .hlt | .ei | .di | .inp _ | .out _ => none

/-- The row of `CYCLES` listed for an opcode byte, if any (log 12). -/
def CycleRow.find (op : Byte) : List CycleRow → Option CycleRow
  | [] => none
  | r :: rs => if r.opcode = op then some r else CycleRow.find op rs

/-- The cycle count an instruction returns (40_execute.md R155): its row's `cycles`, or the row's `alt_cycles` when it
is a Ccc or Rcc whose condition is false. -/
def cyclesOf (s : State) (i : Instr) : Nat :=
  match altCycles i, CycleRow.find i.opcode s.params.cycleRows with
  | some (cond, _), some r => if s.holds cond then r.cycles else r.altCycles
  | some (cond, alt), none => if s.holds cond then defaultCycles i else alt
  | none, some r => r.cycles
  | none, none => defaultCycles i

/-- The state in which an instruction of `n` bytes performs its rule: every byte has been fetched, so PC is the address
of the next sequential instruction (10_state.md R40, R41), and EI_SHADOW is 0 unless the rule sets it (40_execute.md
R156). -/
def State.fetched (s : State) (n : Nat) : State :=
  { s with pc := s.pc + BitVec.ofNat 16 n, eiShadow := false }

/-- The cycle count of a completed step reported. -/
def State.report (s : State) (cycles : Nat) : State := { s with cycles := cycles }

/-- An instruction that completes: its bytes are fetched, its rule is performed, and its cycle count is returned
(40_execute.md R150). `s` is the state whose PC is the address of the opcode byte. -/
def completes (i : Instr) (s : State) (effect : State → State) : Host.Outcome State Fault Refusal :=
  .next ((effect (s.fetched i.length)).report (cyclesOf s i))

/-- An instruction whose handler knows some of the operand cases its syntax allows: a term that is no instruction raises
`UnhandledOperand` (40_execute.md R154, 60_exceptions.md R401, log 8). -/
def completesIfKnown (i : Instr) (s : State) (effect : State → State) : Host.Outcome State Fault Refusal :=
  if i.wellFormed then completes i s effect else raise .unhandledOperand i.opcode s

end Sys2Proof.Machine
end

