-- ==== Sys2Proof/Machine/Arithmetic.lean ====
section
/-! DEFINITION. The meanings of the arithmetic instructions (41_arithmetic.md). -/

namespace Sys2Proof.Machine

/-- ADD r and ADD M (R180, R181): add the operand. -/
def execAdd (src : Operand) (s : State) : Host.Outcome State Fault Refusal :=
  completes (.add src) s fun s => s.addA (s.src src) false

/-- ADI d8 (R182): add the operand, an immediate byte. -/
def execAdi (d8 : Byte) (s : State) : Host.Outcome State Fault Refusal :=
  completes (.adi d8) s fun s => s.addA d8 false

/-- ADC r and ADC M (R183, R184): add the operand and the carry. -/
def execAdc (src : Operand) (s : State) : Host.Outcome State Fault Refusal :=
  completes (.adc src) s fun s => s.addA (s.src src) (s.flag .cy)

/-- ACI d8 (R185): add the operand and the carry, an immediate byte. -/
def execAci (d8 : Byte) (s : State) : Host.Outcome State Fault Refusal :=
  completes (.aci d8) s fun s => s.addA d8 (s.flag .cy)

/-- SUB r and SUB M (R186, R187): subtract the operand. -/
def execSub (src : Operand) (s : State) : Host.Outcome State Fault Refusal :=
  completes (.sub src) s fun s => s.subA (s.src src) false

/-- SUI d8 (R188): subtract the operand, an immediate byte. -/
def execSui (d8 : Byte) (s : State) : Host.Outcome State Fault Refusal :=
  completes (.sui d8) s fun s => s.subA d8 false

/-- SBB r and SBB M (R189, R190): subtract the operand and the borrow. -/
def execSbb (src : Operand) (s : State) : Host.Outcome State Fault Refusal :=
  completes (.sbb src) s fun s => s.subA (s.src src) (s.flag .cy)

/-- SBI d8 (R191): subtract the operand and the borrow, an immediate byte. -/
def execSbi (d8 : Byte) (s : State) : Host.Outcome State Fault Refusal :=
  completes (.sbi d8) s fun s => s.subA d8 (s.flag .cy)

/-- CMP r and CMP M (R192, R193): the flags of the subtraction; A is not written. -/
def execCmp (src : Operand) (s : State) : Host.Outcome State Fault Refusal :=
  completes (.cmp src) s fun s => s.cmpA (s.src src)

/-- CPI d8 (R194): compare with an immediate byte. -/
def execCpi (d8 : Byte) (s : State) : Host.Outcome State Fault Refusal :=
  completes (.cpi d8) s fun s => s.cmpA d8

/-- INR r and INR M (R200, R201): CY is not written. -/
def execInr (dst : Operand) (s : State) : Host.Outcome State Fault Refusal :=
  completes (.inr dst) s fun s => s.increment dst

/-- DCR r and DCR M (R204, R205): CY is not written. -/
def execDcr (dst : Operand) (s : State) : Host.Outcome State Fault Refusal :=
  completes (.dcr dst) s fun s => s.decrement dst

/-- DAA (R210): the two-step decimal adjustment of A. -/
def execDaa (s : State) : Host.Outcome State Fault Refusal :=
  completes .daa s fun s => s.alu (daa8 (s.reg .a) (s.flag .ac) (s.flag .cy))

end Sys2Proof.Machine
end

