-- ==== Sys2Proof/Machine/Control.lean ====
section
/-! DEFINITION. The meanings of the control-transfer instructions (46_control_flow.md). None writes a flag. -/

namespace Sys2Proof.Machine

/-- JMP (R321). -/
def execJmp (a16 : Word) (s : State) : Host.Outcome State Fault Refusal :=
  completes (.jmp a16) s fun s => s.jump a16

/-- JNZ (R322). -/
def execJnz (a16 : Word) (s : State) : Host.Outcome State Fault Refusal :=
  completes (.jnz a16) s fun s => s.doIf .nz (fun s => s.jump a16)

/-- JZ (R323). -/
def execJz (a16 : Word) (s : State) : Host.Outcome State Fault Refusal :=
  completes (.jz a16) s fun s => s.doIf .z (fun s => s.jump a16)

/-- JNC (R324). -/
def execJnc (a16 : Word) (s : State) : Host.Outcome State Fault Refusal :=
  completes (.jnc a16) s fun s => s.doIf .nc (fun s => s.jump a16)

/-- JC (R325). -/
def execJc (a16 : Word) (s : State) : Host.Outcome State Fault Refusal :=
  completes (.jc a16) s fun s => s.doIf .c (fun s => s.jump a16)

/-- JPO (R326). -/
def execJpo (a16 : Word) (s : State) : Host.Outcome State Fault Refusal :=
  completes (.jpo a16) s fun s => s.doIf .po (fun s => s.jump a16)

/-- JPE (R327). -/
def execJpe (a16 : Word) (s : State) : Host.Outcome State Fault Refusal :=
  completes (.jpe a16) s fun s => s.doIf .pe (fun s => s.jump a16)

/-- JP (R328). -/
def execJp (a16 : Word) (s : State) : Host.Outcome State Fault Refusal :=
  completes (.jp a16) s fun s => s.doIf .p (fun s => s.jump a16)

/-- JM (R329). -/
def execJm (a16 : Word) (s : State) : Host.Outcome State Fault Refusal :=
  completes (.jm a16) s fun s => s.doIf .m (fun s => s.jump a16)

/-- CALL (R330): the address after the instruction is pushed. -/
def execCall (a16 : Word) (s : State) : Host.Outcome State Fault Refusal :=
  completes (.call a16) s fun s => s.call a16

/-- CNZ (R331). -/
def execCnz (a16 : Word) (s : State) : Host.Outcome State Fault Refusal :=
  completes (.cnz a16) s fun s => s.doIf .nz (fun s => s.call a16)

/-- CZ (R332). -/
def execCz (a16 : Word) (s : State) : Host.Outcome State Fault Refusal :=
  completes (.cz a16) s fun s => s.doIf .z (fun s => s.call a16)

/-- CNC (R333). -/
def execCnc (a16 : Word) (s : State) : Host.Outcome State Fault Refusal :=
  completes (.cnc a16) s fun s => s.doIf .nc (fun s => s.call a16)

/-- CC (R334). -/
def execCc (a16 : Word) (s : State) : Host.Outcome State Fault Refusal :=
  completes (.cc a16) s fun s => s.doIf .c (fun s => s.call a16)

/-- CPO (R335). -/
def execCpo (a16 : Word) (s : State) : Host.Outcome State Fault Refusal :=
  completes (.cpo a16) s fun s => s.doIf .po (fun s => s.call a16)

/-- CPE (R336). -/
def execCpe (a16 : Word) (s : State) : Host.Outcome State Fault Refusal :=
  completes (.cpe a16) s fun s => s.doIf .pe (fun s => s.call a16)

/-- CP (R337). -/
def execCp (a16 : Word) (s : State) : Host.Outcome State Fault Refusal :=
  completes (.cp a16) s fun s => s.doIf .p (fun s => s.call a16)

/-- CM (R338). -/
def execCm (a16 : Word) (s : State) : Host.Outcome State Fault Refusal :=
  completes (.cm a16) s fun s => s.doIf .m (fun s => s.call a16)

/-- RET (R339). -/
def execRet (s : State) : Host.Outcome State Fault Refusal :=
  completes .ret s fun s => s.returned

/-- RNZ (R340). -/
def execRnz (s : State) : Host.Outcome State Fault Refusal :=
  completes .rnz s fun s => s.doIf .nz State.returned

/-- RZ (R341). -/
def execRz (s : State) : Host.Outcome State Fault Refusal :=
  completes .rz s fun s => s.doIf .z State.returned

/-- RNC (R342). -/
def execRnc (s : State) : Host.Outcome State Fault Refusal :=
  completes .rnc s fun s => s.doIf .nc State.returned

/-- RC (R343). -/
def execRc (s : State) : Host.Outcome State Fault Refusal :=
  completes .rc s fun s => s.doIf .c State.returned

/-- RPO (R344). -/
def execRpo (s : State) : Host.Outcome State Fault Refusal :=
  completes .rpo s fun s => s.doIf .po State.returned

/-- RPE (R345). -/
def execRpe (s : State) : Host.Outcome State Fault Refusal :=
  completes .rpe s fun s => s.doIf .pe State.returned

/-- RP (R346). -/
def execRp (s : State) : Host.Outcome State Fault Refusal :=
  completes .rp s fun s => s.doIf .p State.returned

/-- RM (R347). -/
def execRm (s : State) : Host.Outcome State Fault Refusal :=
  completes .rm s fun s => s.doIf .m State.returned

/-- RST n (R348): the address after the RST byte is pushed. -/
def execRst (n : BitVec 3) (s : State) : Host.Outcome State Fault Refusal :=
  completes (.rst n) s fun s => s.restart n

/-- PCHL (R349). -/
def execPchl (s : State) : Host.Outcome State Fault Refusal :=
  completes .pchl s fun s => s.setPc (s.pair .hl)

end Sys2Proof.Machine
end

