-- ==== Sys2Proof/Machine/Logical.lean ====
section
/-! DEFINITION. The meanings of the logical, complement, carry-control and rotate instructions (42_logical_rotate.md). -/

namespace Sys2Proof.Machine

/-- ANA r and ANA M (R230, R231). -/
def execAna (src : Operand) (s : State) : Host.Outcome State Fault Refusal :=
  completes (.ana src) s fun s => s.andA (s.src src)

/-- ANI d8 (R232). -/
def execAni (d8 : Byte) (s : State) : Host.Outcome State Fault Refusal :=
  completes (.ani d8) s fun s => s.andA d8

/-- XRA r and XRA M (R233, R234). -/
def execXra (src : Operand) (s : State) : Host.Outcome State Fault Refusal :=
  completes (.xra src) s fun s => s.xorA (s.src src)

/-- XRI d8 (R235). -/
def execXri (d8 : Byte) (s : State) : Host.Outcome State Fault Refusal :=
  completes (.xri d8) s fun s => s.xorA d8

/-- ORA r and ORA M (R236, R237). -/
def execOra (src : Operand) (s : State) : Host.Outcome State Fault Refusal :=
  completes (.ora src) s fun s => s.orA (s.src src)

/-- ORI d8 (R238). -/
def execOri (d8 : Byte) (s : State) : Host.Outcome State Fault Refusal :=
  completes (.ori d8) s fun s => s.orA d8

/-- CMA (R240): no flag. -/
def execCma (s : State) : Host.Outcome State Fault Refusal :=
  completes .cma s fun s => s.setReg .a (~~~ s.reg .a)

/-- CMC (R241): CY only. -/
def execCmc (s : State) : Host.Outcome State Fault Refusal :=
  completes .cmc s fun s => s.setFlag .cy (!s.flag .cy)

/-- STC (R242): CY only. -/
def execStc (s : State) : Host.Outcome State Fault Refusal :=
  completes .stc s fun s => s.setFlag .cy true

/-- RLC (R245): bit 7 goes to bit 0 and to CY. -/
def execRlc (s : State) : Host.Outcome State Fault Refusal :=
  completes .rlc s fun s => s.rotate (rotateIntoLow (s.reg .a) ((s.reg .a).getLsbD 7)) ((s.reg .a).getLsbD 7)

/-- RRC (R246): bit 0 goes to bit 7 and to CY. -/
def execRrc (s : State) : Host.Outcome State Fault Refusal :=
  completes .rrc s fun s => s.rotate (rotateIntoHigh (s.reg .a) ((s.reg .a).getLsbD 0)) ((s.reg .a).getLsbD 0)

/-- RAL (R247): the old CY goes to bit 0, bit 7 to CY. -/
def execRal (s : State) : Host.Outcome State Fault Refusal :=
  completes .ral s fun s => s.rotate (rotateIntoLow (s.reg .a) (s.flag .cy)) ((s.reg .a).getLsbD 7)

/-- RAR (R248): the old CY goes to bit 7, bit 0 to CY. -/
def execRar (s : State) : Host.Outcome State Fault Refusal :=
  completes .rar s fun s => s.rotate (rotateIntoHigh (s.reg .a) (s.flag .cy)) ((s.reg .a).getLsbD 0)

end Sys2Proof.Machine
end

