-- ==== Sys2Proof/Machine/Pairs.lean ====
section
/-! DEFINITION. The meanings of the 16-bit register-pair instructions (44_register_pair.md). -/

namespace Sys2Proof.Machine

/-- INX (R290): no flag. -/
def execInx (pair : RegPair) (s : State) : Host.Outcome State Fault Refusal :=
  completes (.inx pair) s fun s => s.setPair pair (s.pair pair + 1#16)

/-- DCX (R291): no flag. -/
def execDcx (pair : RegPair) (s : State) : Host.Outcome State Fault Refusal :=
  completes (.dcx pair) s fun s => s.setPair pair (s.pair pair - 1#16)

/-- DAD (R292): CY only. -/
def execDad (pair : RegPair) (s : State) : Host.Outcome State Fault Refusal :=
  completes (.dad pair) s fun s => s.addHl (s.pair pair)

end Sys2Proof.Machine
end

