-- ==== Sys2Proof/Machine/Stack.lean ====
section
/-! DEFINITION. The meanings of the stack instructions (45_stack.md). -/

namespace Sys2Proof.Machine

/-- PUSH (R300, R301). -/
def execPush (pair : StackPair) (s : State) : Host.Outcome State Fault Refusal :=
  completes (.push pair) s fun s => s.push16 (s.stackPair pair)

/-- POP (R302, R303). -/
def execPop (pair : StackPair) (s : State) : Host.Outcome State Fault Refusal :=
  completes (.pop pair) s fun s => s.drop16.setStackPair pair s.top16

/-- XTHL (R305): both bytes are read before L and then H are written. -/
def execXthl (s : State) : Host.Outcome State Fault Refusal :=
  completes .xthl s fun s => (s.writeWord s.sp (s.pair .hl)).setPair .hl (s.readWord s.sp)

/-- SPHL (R306). -/
def execSphl (s : State) : Host.Outcome State Fault Refusal :=
  completes .sphl s fun s => s.setSp (s.pair .hl)

end Sys2Proof.Machine
end

