-- ==== Sys2Proof/Machine/System.lean ====
section
/-! DEFINITION. The meanings of the machine-control and I/O instructions (47_machine_control.md). None writes a flag. -/

namespace Sys2Proof.Machine

/-- NOP (R370). -/
def execNop (s : State) : Host.Outcome State Fault Refusal :=
  completes .nop s fun s => s

/-- HLT (R371). -/
def execHlt (s : State) : Host.Outcome State Fault Refusal :=
  completes .hlt s fun s => { s with halted := true }

/-- EI (R374). -/
def execEi (s : State) : Host.Outcome State Fault Refusal :=
  completes .ei s fun s => { s with inte := true, eiShadow := true }

/-- DI (R375). -/
def execDi (s : State) : Host.Outcome State Fault Refusal :=
  completes .di s fun s => { s with inte := false }

/-- IN p8 (R376): the environment's answer goes to A; the answer is an event. -/
def execIn (p8 : Byte) (s : State) : Host.Outcome State Fault Refusal :=
  completes (.inp p8) s fun s => (s.ioIn p8).setReg .a s.ioAnswer

/-- OUT p8 (R377): one event and nothing else. -/
def execOut (p8 : Byte) (s : State) : Host.Outcome State Fault Refusal :=
  completes (.out p8) s fun s => s.ioOut p8 (s.reg .a)

end Sys2Proof.Machine
end

