-- ==== Sys2Proof/Machine/Transfer.lean ====
section
/-! DEFINITION. The meanings of the data-transfer instructions (43_data_transfer.md). None writes a flag. -/

namespace Sys2Proof.Machine

/-- MOV (R260, R261, R262): register to register, memory to register, register to memory; never memory to memory (R123). -/
def execMov (dst : Operand) (src : Operand) (s : State) : Host.Outcome State Fault Refusal :=
  completesIfKnown (.mov dst src) s fun s => s.setDst dst (s.src src)

/-- MVI r and MVI M (R263, R264). -/
def execMvi (dst : Operand) (d8 : Byte) (s : State) : Host.Outcome State Fault Refusal :=
  completes (.mvi dst d8) s fun s => s.setDst dst d8

/-- LXI (R265). -/
def execLxi (pair : RegPair) (d16 : Word) (s : State) : Host.Outcome State Fault Refusal :=
  completes (.lxi pair d16) s fun s => s.setPair pair d16

/-- LDA (R266). -/
def execLda (a16 : Word) (s : State) : Host.Outcome State Fault Refusal :=
  completes (.lda a16) s fun s => s.setReg .a (s.read a16)

/-- STA (R267). -/
def execSta (a16 : Word) (s : State) : Host.Outcome State Fault Refusal :=
  completes (.sta a16) s fun s => s.write a16 (s.reg .a)

/-- LHLD (R268): L from a16, H from the next byte. -/
def execLhld (a16 : Word) (s : State) : Host.Outcome State Fault Refusal :=
  completes (.lhld a16) s fun s => s.setPair .hl (s.readWord a16)

/-- SHLD (R269): L to a16, H to the next byte. -/
def execShld (a16 : Word) (s : State) : Host.Outcome State Fault Refusal :=
  completes (.shld a16) s fun s => s.writeWord a16 (s.pair .hl)

/-- LDAX (R270): BC or DE only. -/
def execLdax (pair : RegPair) (s : State) : Host.Outcome State Fault Refusal :=
  completesIfKnown (.ldax pair) s fun s => s.setReg .a (s.read (s.pair pair))

/-- STAX (R271): BC or DE only. -/
def execStax (pair : RegPair) (s : State) : Host.Outcome State Fault Refusal :=
  completesIfKnown (.stax pair) s fun s => s.write (s.pair pair) (s.reg .a)

/-- XCHG (R272). -/
def execXchg (s : State) : Host.Outcome State Fault Refusal :=
  completes .xchg s fun s => (s.setPair .hl (s.pair .de)).setPair .de (s.pair .hl)

end Sys2Proof.Machine
end

