-- ==== Sys2Proof/Machine/Dispatch.lean ====
section
/-! DEFINITION. Dispatch by the operation tag (40_execute.md R150, R154): one arm per instruction. -/

namespace Sys2Proof.Machine

/-- What an instruction does at a state whose PC is the address of its opcode byte. -/
def exec (i : Instr) (s : State) : Host.Outcome State Fault Refusal :=
  match i with
  -- arithmetic (41_arithmetic.md)
  | .add src => Sys2Proof.Machine.execAdd src s
  | .adi d8 => Sys2Proof.Machine.execAdi d8 s
  | .adc src => Sys2Proof.Machine.execAdc src s
  | .aci d8 => Sys2Proof.Machine.execAci d8 s
  | .sub src => Sys2Proof.Machine.execSub src s
  | .sui d8 => Sys2Proof.Machine.execSui d8 s
  | .sbb src => Sys2Proof.Machine.execSbb src s
  | .sbi d8 => Sys2Proof.Machine.execSbi d8 s
  | .cmp src => Sys2Proof.Machine.execCmp src s
  | .cpi d8 => Sys2Proof.Machine.execCpi d8 s
  | .inr dst => Sys2Proof.Machine.execInr dst s
  | .dcr dst => Sys2Proof.Machine.execDcr dst s
  | .daa => Sys2Proof.Machine.execDaa s
  -- logical, complement, carry control, rotate (42_logical_rotate.md)
  | .ana src => Sys2Proof.Machine.execAna src s
  | .ani d8 => Sys2Proof.Machine.execAni d8 s
  | .xra src => Sys2Proof.Machine.execXra src s
  | .xri d8 => Sys2Proof.Machine.execXri d8 s
  | .ora src => Sys2Proof.Machine.execOra src s
  | .ori d8 => Sys2Proof.Machine.execOri d8 s
  | .cma => Sys2Proof.Machine.execCma s
  | .cmc => Sys2Proof.Machine.execCmc s
  | .stc => Sys2Proof.Machine.execStc s
  | .rlc => Sys2Proof.Machine.execRlc s
  | .rrc => Sys2Proof.Machine.execRrc s
  | .ral => Sys2Proof.Machine.execRal s
  | .rar => Sys2Proof.Machine.execRar s
  -- data transfer (43_data_transfer.md)
  | .mov dst src => Sys2Proof.Machine.execMov dst src s
  | .mvi dst d8 => Sys2Proof.Machine.execMvi dst d8 s
  | .lxi pair d16 => Sys2Proof.Machine.execLxi pair d16 s
  | .lda a16 => Sys2Proof.Machine.execLda a16 s
  | .sta a16 => Sys2Proof.Machine.execSta a16 s
  | .lhld a16 => Sys2Proof.Machine.execLhld a16 s
  | .shld a16 => Sys2Proof.Machine.execShld a16 s
  | .ldax pair => Sys2Proof.Machine.execLdax pair s
  | .stax pair => Sys2Proof.Machine.execStax pair s
  | .xchg => Sys2Proof.Machine.execXchg s
  -- register-pair arithmetic (44_register_pair.md)
  | .inx pair => Sys2Proof.Machine.execInx pair s
  | .dcx pair => Sys2Proof.Machine.execDcx pair s
  | .dad pair => Sys2Proof.Machine.execDad pair s
  -- stack (45_stack.md)
  | .push pair => Sys2Proof.Machine.execPush pair s
  | .pop pair => Sys2Proof.Machine.execPop pair s
  | .xthl => Sys2Proof.Machine.execXthl s
  | .sphl => Sys2Proof.Machine.execSphl s
  -- control transfer (46_control_flow.md)
  | .jmp a16 => Sys2Proof.Machine.execJmp a16 s
  | .jnz a16 => Sys2Proof.Machine.execJnz a16 s
  | .jz a16 => Sys2Proof.Machine.execJz a16 s
  | .jnc a16 => Sys2Proof.Machine.execJnc a16 s
  | .jc a16 => Sys2Proof.Machine.execJc a16 s
  | .jpo a16 => Sys2Proof.Machine.execJpo a16 s
  | .jpe a16 => Sys2Proof.Machine.execJpe a16 s
  | .jp a16 => Sys2Proof.Machine.execJp a16 s
  | .jm a16 => Sys2Proof.Machine.execJm a16 s
  | .call a16 => Sys2Proof.Machine.execCall a16 s
  | .cnz a16 => Sys2Proof.Machine.execCnz a16 s
  | .cz a16 => Sys2Proof.Machine.execCz a16 s
  | .cnc a16 => Sys2Proof.Machine.execCnc a16 s
  | .cc a16 => Sys2Proof.Machine.execCc a16 s
  | .cpo a16 => Sys2Proof.Machine.execCpo a16 s
  | .cpe a16 => Sys2Proof.Machine.execCpe a16 s
  | .cp a16 => Sys2Proof.Machine.execCp a16 s
  | .cm a16 => Sys2Proof.Machine.execCm a16 s
  | .ret => Sys2Proof.Machine.execRet s
  | .rnz => Sys2Proof.Machine.execRnz s
  | .rz => Sys2Proof.Machine.execRz s
  | .rnc => Sys2Proof.Machine.execRnc s
  | .rc => Sys2Proof.Machine.execRc s
  | .rpo => Sys2Proof.Machine.execRpo s
  | .rpe => Sys2Proof.Machine.execRpe s
  | .rp => Sys2Proof.Machine.execRp s
  | .rm => Sys2Proof.Machine.execRm s
  | .rst n => Sys2Proof.Machine.execRst n s
  | .pchl => Sys2Proof.Machine.execPchl s
  -- machine control and I/O (47_machine_control.md)
  | .nop => Sys2Proof.Machine.execNop s
  | .hlt => Sys2Proof.Machine.execHlt s
  | .ei => Sys2Proof.Machine.execEi s
  | .di => Sys2Proof.Machine.execDi s
  | .inp p8 => Sys2Proof.Machine.execIn p8 s
  | .out p8 => Sys2Proof.Machine.execOut p8 s

end Sys2Proof.Machine
end

