-- ==== Sys2Proof/Machine/Reads.lean ====
section
/-! DEFINITION. What an instruction reads, for the fault of `RESET_MODE = undefined` (60_exceptions.md R405). Every read
of an instruction is listed, so the first read of a place without a value exists exactly when one is listed. -/

namespace Sys2Proof.Machine

/-- The registers a pair read reads: both halves, or SP (R405). -/
def pairReads : RegPair → List Loc
  | .bc => [.reg .b, .reg .c]
  | .de => [.reg .d, .reg .e]
  | .hl => [.reg .h, .reg .l]
  | .sp => [.sp]

/-- What PUSH reads besides SP; PSW reads A and all five flags (R405). -/
def stackPairReads : StackPair → List Loc
  | .bc => pairReads .bc
  | .de => pairReads .de
  | .hl => pairReads .hl
  | .psw => [.reg .a, .flag .s, .flag .z, .flag .ac, .flag .p, .flag .cy]

/-- What the source operand reads: the register, or H and L for M (R405). -/
def srcReads : Operand → List Loc
  | .reg r => [.reg r]
  | .m => pairReads .hl

/-- What a destination operand reads: nothing, or H and L for M (R405). -/
def dstReads : Operand → List Loc
  | .reg _ => []
  | .m => pairReads .hl

/-- A conditional transfer reads its flag, and what the transfer reads only if it is made. -/
def condReads (s : State) (cond : Cond) (transfer : List Loc) : List Loc :=
  .flag (Cond.tests cond) :: (if s.holds cond then transfer else [])

/-- The registers and flags an instruction reads at a state, by the pseudocode of its rule. -/
def readsOf (s : State) : Instr → List Loc
  | .add src | .sub src | .cmp src | .ana src | .xra src | .ora src => .reg .a :: srcReads src
  | .adc src | .sbb src => .reg .a :: .flag .cy :: srcReads src
  | .adi _ | .sui _ | .cpi _ | .ani _ | .xri _ | .ori _ => [.reg .a]
  | .aci _ | .sbi _ => [.reg .a, .flag .cy]
  | .inr dst | .dcr dst => srcReads dst
  | .daa => [.reg .a, .flag .ac, .flag .cy]
  | .cma | .rlc | .rrc => [.reg .a]
  | .ral | .rar => [.reg .a, .flag .cy]
  | .cmc => [.flag .cy]
  | .stc => []
  | .mov dst src => srcReads src ++ dstReads dst
  | .mvi dst _ => dstReads dst
  | .lxi _ _ | .lda _ | .lhld _ => []
  | .sta _ => [.reg .a]
  | .shld _ => pairReads .hl
  | .ldax pair => pairReads pair
  | .stax pair => .reg .a :: pairReads pair
  | .xchg => pairReads .hl ++ pairReads .de
  | .inx pair | .dcx pair => pairReads pair
  | .dad pair => pairReads .hl ++ pairReads pair
  | .push pair => .sp :: stackPairReads pair
  | .pop _ => [.sp]
  | .xthl => .sp :: pairReads .hl
  | .sphl | .pchl => pairReads .hl
  | .jmp _ => []
  | .jnz _ => condReads s .nz []
  | .jz _ => condReads s .z []
  | .jnc _ => condReads s .nc []
  | .jc _ => condReads s .c []
  | .jpo _ => condReads s .po []
  | .jpe _ => condReads s .pe []
  | .jp _ => condReads s .p []
  | .jm _ => condReads s .m []
  | .call _ | .ret | .rst _ => [.sp]
  | .cnz _ | .rnz => condReads s .nz [.sp]
  | .cz _ | .rz => condReads s .z [.sp]
  | .cnc _ | .rnc => condReads s .nc [.sp]
  | .cc _ | .rc => condReads s .c [.sp]
  | .cpo _ | .rpo => condReads s .po [.sp]
  | .cpe _ | .rpe => condReads s .pe [.sp]
  | .cp _ | .rp => condReads s .p [.sp]
  | .cm _ | .rm => condReads s .m [.sp]
  | .nop | .hlt | .ei | .di | .inp _ => []
  | .out _ => [.reg .a]

/-- One of the places holds no value. -/
def State.lacks (s : State) (ls : List Loc) : Bool := ls.any (fun l => s.unset.contains l)

/-- The instruction reads a register or flag that holds no value (R405). -/
def readsUnset (s : State) (i : Instr) : Bool := s.lacks (readsOf s i)

end Sys2Proof.Machine
end

