-- ==== Sys2Proof/Machine/Execute.lean ====
section
/-! DEFINITION. One `execute()` call (40_execute.md R150, R151): what is decided at its start, the fetch, interrupt
acceptance (60_exceptions.md R411), the halted idle step (47_machine_control.md R372) and the instruction step. -/

namespace Sys2Proof.Machine

/-- The longest instruction, laid out in memory from PC on (30_encoding.md R110); addresses wrap (20_memory.md R78). -/
def State.bytesAtPc (s : State) : List Byte := [s.read s.pc, s.read (s.pc + 1#16), s.read (s.pc + 2#16)]

/-- The instruction at PC, or none when the opcode byte has no row (R150). -/
def State.fetch (s : State) : Option Instr :=
  match decode s.bytesAtPc with
  | .ok (i, _) => some i
  | .error _ => none

/-- The row is refused under this machine's `ADMIT_GK` (R153). -/
def refusesRow (s : State) (i : Instr) : Bool :=
  decide (s.params.admitGk = .docOnly) && decide (semanticsOf i ≠ .doc)

/-- A refused row: PC past the opcode byte, the refused mark set, nothing else (R153). -/
def State.refusing (s : State) : State := { s with pc := s.pc + 1#16, refusedMark := true }

/-- An instruction step (R150): fetch and decode, then the decode fault, the refusal, the fault the spec gives a read of
a place without a value (60_exceptions.md R405; never under `RESET_MODE = zero`), or the instruction. -/
def instructionStep (s : State) : Host.Outcome State Fault Refusal :=
  match s.fetch with
  | none => raise .unrecognizedOpcode (s.read s.pc) s
  | some i =>
    if refusesRow s i then .refused (.docOnly (s.read s.pc) s.refusing)
    else if readsUnset s i then raise .uninitializedRead (s.read s.pc) s
    else exec i s

/-- The cycles of an acceptance step (60_exceptions.md R411). -/
def acceptanceCycles : Nat := 11

/-- The state left by the fault of an acceptance step while SP holds no value: PC is unchanged and the record's byte is
that of the presented `RST n` (60_exceptions.md R405, log 19). -/
def State.acceptanceFaulted (s : State) (n : BitVec 3) : State :=
  { s with fault := some { kind := .uninitializedRead, op := (Instr.rst n).opcode, pc := s.pc } }

/-- An acceptance step with vector `n` (60_exceptions.md R411). R405 gives the fault while SP holds no value; never under
`RESET_MODE = zero`. -/
def acceptanceStep (n : BitVec 3) (s : State) : Host.Outcome State Fault Refusal :=
  if s.lacks [.sp] then
    .fault (.uninitializedRead (Instr.rst n).opcode s.pc (s.acceptanceFaulted n))
  else .next ((s.interrupted n).report acceptanceCycles)

/-- A halted idle step: no fetch, no change (47_machine_control.md R372). -/
def idleStep (s : State) : Host.Outcome State Fault Refusal := .next (s.report Config.haltIdleCycles)

/-- Cases 3 and 4 of R151: no interrupt is accepted. -/
def uninterruptedStep (s : State) : Host.Outcome State Fault Refusal :=
  if s.halted then idleStep s else instructionStep s

/-- Cases 2 to 4 of R151: a presented request is accepted if it can be, and wins over the halt and the fetch. -/
def runningStep (s : State) : Host.Outcome State Fault Refusal :=
  match s.request with
  | some n => if s.acceptsInterrupt then acceptanceStep n s.sampled else uninterruptedStep s.sampled
  | none => uninterruptedStep s.sampled

/-- One `execute()` call, by the order of R151: a recorded fault is returned again and changes nothing; after a
refusal no step follows. -/
def executeStep (s : State) : Host.Outcome State Fault Refusal :=
  match s.fault with
  | some r => .fault (r.toFault s)
  | none => if s.refusedMark then .refused .afterRefusal else runningStep s

/-- The schedule of requests with nothing presented at the next step. -/
def withoutNextRequest : List (Option (BitVec 3)) → List (Option (BitVec 3))
  | [] => []
  | _ :: rs => none :: rs

/-- `s` with an instruction stored where the next step fetches, and nothing in the way of that fetch: no fault, no
refused mark, not halted, no request presented at that step (log 20). -/
def State.placed (s : State) (bytes : List Byte) : State :=
  { s.load s.pc bytes with
    fault := none
    refusedMark := false
    halted := false
    env := { s.env with requests := withoutNextRequest s.env.requests } }

end Sys2Proof.Machine
end

