-- ==== Sys2Proof/Machine/Step.lean ====
section
/-! DEFINITION. The step, and a state with an instruction placed for it (log 14, log 20). -/

namespace Sys2Proof.Machine

/-- One step of the machine is one `execute()` call (00_scope.md R11, 40_execute.md R150, R151). -/
def step (s : State) : Host.Outcome State Fault Refusal := executeStep s

/-- `s` with the instruction of the bits `w` of a table row stored at PC, so that the next step runs it. -/
def State.withFetchWord (s : State) (nbits w : Nat) : State := s.placed (tableWordBytes nbits w)

end Sys2Proof.Machine
end

