-- ==== Sys2Proof/Safety.lean ====
section
/-! DEFINITION. The terms claims are stated in: the classes a run's state falls into (70_reset_and_hazards.md R457), the
invariant of the machine, what an instruction leaves unchanged, and when two states differ only in places that hold no
value. -/

namespace Sys2Proof.Machine

/-! ### Classes of a run's state -/

/-- The classes of R457, of which only `finished` is a successful end. -/
inductive RunClass where
  | faulted
  | refused
  | finished
  | waiting
  | running
  deriving DecidableEq, Repr

/-- Some interrupt can be accepted now or after the shadow of EI has passed: the input exists and INTE is set (R457). -/
def State.canBeInterrupted (s : State) : Bool := decide (s.params.irqModel = .rstAny) && s.inte

/-- The class of a state (R457). -/
def State.runClass (s : State) : RunClass :=
  if s.fault.isSome then .faulted
  else if s.refusedMark then .refused
  else if s.halted then (if s.canBeInterrupted then .waiting else .finished)
  else .running

/-! ### The invariant -/

/-- What every step keeps: memory is in canonical form (20_memory.md R70); the EI shadow is set only while interrupts are
enabled, and never while halted (40_execute.md R156); and under `RESET_MODE = zero` every register and flag holds a
value (10_state.md R50). -/
structure State.Inv (s : State) : Prop where
  memWf : s.mem.wf = true
  shadowEnabled : s.eiShadow = true → s.inte = true
  haltedUnshadowed : s.halted = true → s.eiShadow = false
  defined : s.params.resetMode = .zero → s.unset = []

/-! ### Frames -/

/-- All five flags (10_state.md R35). -/
def allFlags : List Loc := [.flag .s, .flag .z, .flag .ac, .flag .p, .flag .cy]

/-- From `s` to `t` only the registers, the flags and SP of `writes` and the memory bytes at `stores` may have changed.
-/
structure Keeps (writes : List Loc) (stores : List Word) (s t : State) : Prop where
  regs : ∀ r, Loc.reg r ∉ writes → t.reg r = s.reg r
  flags : ∀ f, Loc.flag f ∉ writes → t.flag f = s.flag f
  sp : Loc.sp ∉ writes → t.sp = s.sp
  bytes : ∀ a, a ∉ stores → t.read a = s.read a

/-- From `s` to `t` the control state and the fault and refusal marks (10_state.md R45, R47, R48, R53), and what the
machine was constructed with, are unchanged. -/
structure KeepsControl (s t : State) : Prop where
  inte : t.inte = s.inte
  halted : t.halted = s.halted
  fault : t.fault = s.fault
  refusedMark : t.refusedMark = s.refusedMark
  params : t.params = s.params

/-- From `s` to `t` nothing happened at the I/O interface and no request was sampled. -/
structure KeepsIo (s t : State) : Prop where
  env : t.env = s.env
  events : t.events = s.events

/-! ### States that differ only where no value is held -/

/-- `s` and `t` have the same places without a value, and agree on everything else (70_reset_and_hazards.md R441). -/
structure AgreeOnDefined (s t : State) : Prop where
  unset : t.unset = s.unset
  regs : ∀ r, Loc.reg r ∉ s.unset → t.reg r = s.reg r
  flags : ∀ f, Loc.flag f ∉ s.unset → t.flag f = s.flag f
  sp : Loc.sp ∉ s.unset → t.sp = s.sp
  pc : t.pc = s.pc
  inte : t.inte = s.inte
  eiShadow : t.eiShadow = s.eiShadow
  halted : t.halted = s.halted
  fault : t.fault = s.fault
  refusedMark : t.refusedMark = s.refusedMark
  mem : t.mem = s.mem
  params : t.params = s.params
  env : t.env = s.env
  events : t.events = s.events

end Sys2Proof.Machine
end

