-- ==== Sys2Proof/Certificates/Slice0/Obligations.lean ====
section
/-! DEFINITION. The statements for the provers. Each docstring names the rule of spec/ it formalises; where a rule is the
spec's own decision or inference, or general knowledge, the docstring says so. -/

open Sys2Proof Sys2Proof.Machine

/-! ### The vocabulary of the statements, written from the spec and not from the model's own functions where the spec gives
a formula -/

namespace Sys2Proof.Claims

/-- The number of 1 bits of a byte (00_scope.md R8). -/
def ones (v : Byte) : Nat := ((List.finRange 8).filter (fun i => v.getLsbD i.val)).length

/-- The low four bits of a byte as a number. -/
def nibble (v : Byte) : Nat := v.toNat % 16

/-- `b` as the number 0 or 1. -/
def bit (b : Bool) : Nat := if b then 1 else 0

/-- S, Z and P of `t` are those of the result `v` (40_execute.md R160). -/
structure ResultFlags (t : State) (v : Byte) : Prop where
  sign : t.flag .s = v.getLsbD 7
  zero : t.flag .z = decide (v.toNat = 0)
  parity : t.flag .p = decide (ones v % 2 = 0)

/-- Only the places of `writes` and the bytes at `stores` may differ; INTE, halted, the fault and refusal marks, the
parameters and the interfaces are unchanged. What EI_SHADOW becomes is `WellFormedInstructionsAlwaysComplete`. -/
structure Frame (writes : List Loc) (stores : List Word) (s t : State) : Prop where
  keeps : Keeps writes stores s t
  control : KeepsControl s t
  io : KeepsIo s t

/-- A, the flags and nothing else after `A <- A + v + cin`. -/
structure Added (s t : State) (v : Byte) (cin : Bool) : Prop where
  sum : (t.reg .a).toNat = ((s.reg .a).toNat + v.toNat + bit cin) % 256
  carry : t.flag .cy = decide (255 < (s.reg .a).toNat + v.toNat + bit cin)
  aux : t.flag .ac = decide (15 < nibble (s.reg .a) + nibble v + bit cin)
  result : ResultFlags t (t.reg .a)
  frame : Frame (.reg .a :: allFlags) [] s t

/-- The borrow flags of `A - v - bin`: CY out of bit 7, AC out of bit 3 or its negation by the policy. -/
structure Borrows (s t : State) (v : Byte) (bin : Bool) : Prop where
  carry : t.flag .cy = decide ((s.reg .a).toNat < v.toNat + bit bin)
  auxDocument : s.params.acPolicy = .document →
    t.flag .ac = decide (nibble (s.reg .a) < nibble v + bit bin)
  auxSilicon : s.params.acPolicy = .silicon8080 →
    t.flag .ac = !decide (nibble (s.reg .a) < nibble v + bit bin)

/-- `A - v - bin` modulo 256, as a number. -/
def difference (a v : Byte) (bin : Bool) : Nat := (a.toNat + 512 - v.toNat - bit bin) % 256

/-- A, the flags and nothing else after `A <- A - v - bin`. -/
structure Subtracted (s t : State) (v : Byte) (bin : Bool) : Prop where
  difference : (t.reg .a).toNat = difference (s.reg .a) v bin
  borrows : Borrows s t v bin
  result : ResultFlags t (t.reg .a)
  frame : Frame (.reg .a :: allFlags) [] s t

/-- The flags and nothing else after the comparison of A with `v`. -/
structure Compared (s t : State) (v : Byte) : Prop where
  accumulator : t.reg .a = s.reg .a
  borrows : Borrows s t v false
  result : ResultFlags t (BitVec.ofNat 8 (difference (s.reg .a) v false))
  frame : Frame allFlags [] s t

/-- A, the flags and nothing else after a logical operation with result `v` and auxiliary carry `ac`. -/
structure Combined (s t : State) (v : Byte) (ac : Bool) : Prop where
  value : t.reg .a = v
  carry : t.flag .cy = false
  aux : t.flag .ac = ac
  result : ResultFlags t v
  frame : Frame (.reg .a :: allFlags) [] s t

/-- The auxiliary carry AND leaves under each policy (42_logical_rotate.md R230). -/
def andAux (s : State) (v : Byte) : Bool :=
  decide (s.params.acPolicy = .silicon8080) && ((s.reg .a).getLsbD 3 || v.getLsbD 3)

/-- The flags INR and DCR write. -/
def countFlags : List Loc := [.flag .s, .flag .z, .flag .ac, .flag .p]

/-- The two bytes of memory a push stores to. -/
def pushed (s : State) : List Word := [s.sp - 1#16, s.sp - 2#16]

/-- `v` has been pushed: the high byte just below the old SP, the low byte below that, SP two lower (20_memory.md R80).
-/
structure Pushes (s t : State) (v : Word) : Prop where
  high : (t.read (s.sp - 1#16)).toNat = v.toNat / 256
  low : (t.read (s.sp - 2#16)).toNat = v.toNat % 256
  sp : t.sp = s.sp - 2#16

/-- `v` is the word at SP, low byte first, and SP is two higher (20_memory.md R81). -/
structure Pops (s t : State) (v : Word) : Prop where
  value : v.toNat = (s.read (s.sp + 1#16)).toNat * 256 + (s.read s.sp).toNat
  sp : t.sp = s.sp + 2#16

/-- With the default `CYCLES`, the step returns `n`. The counts are general knowledge and the spec's decision D17
(70_reset_and_hazards.md R456, log 12). -/
def Costs (s t : State) (n : Nat) : Prop := s.params.cycleRows = [] → t.cycles = n

/-- A conditional or unconditional jump of three bytes: to `a` when `taken`, else to the next instruction. -/
def Jumps (i : Word → Instr) (op : Byte) (taken : State → Bool) : Prop :=
  ∀ (s : State) (a : Word), encode (i a) = [op, BitVec.ofNat 8 a.toNat, BitVec.ofNat 8 (a.toNat / 256)] ∧
    ∃ t, exec (i a) s = .next t ∧ t.pc = (if taken s then a else s.pc + 3#16) ∧ Costs s t 10 ∧ Frame [] [] s t

/-- A call of three bytes: when `taken`, the address after it is pushed and PC is `a`; else nothing is pushed. -/
def Calls (i : Word → Instr) (op : Byte) (taken : State → Bool) : Prop :=
  ∀ (s : State) (a : Word), encode (i a) = [op, BitVec.ofNat 8 a.toNat, BitVec.ofNat 8 (a.toNat / 256)] ∧
    ∃ t, exec (i a) s = .next t ∧
      (if taken s then t.pc = a ∧ Pushes s t (s.pc + 3#16) ∧ Costs s t 17 ∧ Frame [.sp] (pushed s) s t
       else t.pc = s.pc + 3#16 ∧ Costs s t 11 ∧ Frame [] [] s t)

/-- A return of one byte: when `taken`, PC is popped; else nothing is popped. -/
def Returns (i : Instr) (op : Byte) (taken : State → Bool) (cost : Nat) : Prop :=
  ∀ (s : State), encode i = [op] ∧
    ∃ t, exec i s = .next t ∧
      (if taken s then Pops s t t.pc ∧ Costs s t cost ∧ Frame [.sp] [] s t
       else t.pc = s.pc + 1#16 ∧ Costs s t 5 ∧ Frame [] [] s t)

/-- The value of a packed decimal byte. -/
def decimal (v : Byte) : Nat := v.toNat / 16 * 10 + v.toNat % 16

/-- Both nibbles are decimal digits. -/
def packed (v : Byte) : Bool := decide (v.toNat / 16 ≤ 9) && decide (v.toNat % 16 ≤ 9)

/-- Two instructions one after the other. -/
def andThen (i j : Instr) (s : State) : Host.Outcome State Fault Refusal :=
  match exec i s with
  | .next t => exec j t
  | .fault r => .fault r
  | .refused r => .refused r

/-- One instruction `n` times. -/
def times (i : Instr) : Nat → State → Host.Outcome State Fault Refusal
  | 0, s => .next s
  | n + 1, s =>
    match exec i s with
    | .next t => times i n t
    | .fault r => .fault r
    | .refused r => .refused r

/-- The instructions that write S, Z, P and AC (10_state.md R37). -/
def writesResultFlags : Instr → Bool
  | .add _ | .adi _ | .adc _ | .aci _ | .sub _ | .sui _ | .sbb _ | .sbi _ | .cmp _ | .cpi _ => true
  | .ana _ | .ani _ | .xra _ | .xri _ | .ora _ | .ori _ => true
  | .inr _ | .dcr _ | .daa => true
  | .pop pair => decide (pair = .psw)
  | _ => false

/-- The instructions that write CY (10_state.md R37). -/
def writesCarry : Instr → Bool
  | .add _ | .adi _ | .adc _ | .aci _ | .sub _ | .sui _ | .sbb _ | .sbi _ | .cmp _ | .cpi _ => true
  | .ana _ | .ani _ | .xra _ | .xri _ | .ora _ | .ori _ => true
  | .daa | .rlc | .rrc | .ral | .rar | .stc | .cmc | .dad _ => true
  | .pop pair => decide (pair = .psw)
  | _ => false

/-- The instructions whose semantics the source document states, the `doc` rows (30_encoding.md R125): those of
41_arithmetic.md and 42_logical_rotate.md, whose headers name no other, and MOV, LDAX, STAX and NOP of
43_data_transfer.md and 47_machine_control.md. The headers of 43 to 47 name the rest. -/
def documented : Instr → Bool
  | .add _ | .adc _ | .sub _ | .sbb _ | .cmp _ | .adi _ | .aci _ | .sui _ | .sbi _ | .cpi _ => true
  | .inr _ | .dcr _ | .daa => true
  | .ana _ | .xra _ | .ora _ | .ani _ | .xri _ | .ori _ => true
  | .cma | .cmc | .stc | .rlc | .rrc | .ral | .rar => true
  | .mov _ _ | .ldax _ | .stax _ | .nop => true
  | _ => false

/-- SP, for a conditional call or return that is taken. -/
def spIf (taken : Bool) : List Loc := if taken then [.sp] else []

/-- The registers and flags an instruction writes at `s`, by the `Flags` lines and the pseudocode of 41 to 47. A
conditional call or return writes SP only when it is taken (46_control_flow.md R320). -/
def writesOf (s : State) : Instr → List Loc
  | .add _ | .adc _ | .sub _ | .sbb _ | .adi _ | .aci _ | .sui _ | .sbi _ | .daa => .reg .a :: allFlags
  | .ana _ | .xra _ | .ora _ | .ani _ | .xri _ | .ori _ => .reg .a :: allFlags
  | .cmp _ | .cpi _ => allFlags
  | .inr (.reg r) | .dcr (.reg r) => .reg r :: countFlags
  | .inr .m | .dcr .m => countFlags
  | .cma | .lda _ | .ldax _ | .inp _ => [.reg .a]
  | .cmc | .stc => [.flag .cy]
  | .rlc | .rrc | .ral | .rar => [.reg .a, .flag .cy]
  | .mov (.reg r) _ | .mvi (.reg r) _ => [.reg r]
  | .mov .m _ | .mvi .m _ | .sta _ | .shld _ | .stax _ => []
  | .lxi .bc _ | .inx .bc | .dcx .bc => [.reg .b, .reg .c]
  | .lxi .de _ | .inx .de | .dcx .de => [.reg .d, .reg .e]
  | .lxi .hl _ | .inx .hl | .dcx .hl | .lhld _ | .xthl => [.reg .h, .reg .l]
  | .lxi .sp _ | .inx .sp | .dcx .sp | .sphl | .push _ => [.sp]
  | .dad _ => [.reg .h, .reg .l, .flag .cy]
  | .xchg => [.reg .h, .reg .l, .reg .d, .reg .e]
  | .pop .bc => [.sp, .reg .b, .reg .c]
  | .pop .de => [.sp, .reg .d, .reg .e]
  | .pop .hl => [.sp, .reg .h, .reg .l]
  | .pop .psw => .sp :: .reg .a :: allFlags
  | .jmp _ | .jnz _ | .jz _ | .jnc _ | .jc _ | .jpo _ | .jpe _ | .jp _ | .jm _ | .pchl => []
  | .call _ | .ret | .rst _ => [.sp]
  | .cnz _ | .rnz => spIf (!s.flag .z)
  | .cz _ | .rz => spIf (s.flag .z)
  | .cnc _ | .rnc => spIf (!s.flag .cy)
  | .cc _ | .rc => spIf (s.flag .cy)
  | .cpo _ | .rpo => spIf (!s.flag .p)
  | .cpe _ | .rpe => spIf (s.flag .p)
  | .cp _ | .rp => spIf (!s.flag .s)
  | .cm _ | .rm => spIf (s.flag .s)
  | .nop | .hlt | .ei | .di | .out _ => []

/-- The state with another reported count and other rows of `CYCLES`. -/
def recounted (s : State) (cycles : Nat) (rows : List CycleRow) : State :=
  { s with cycles := cycles, params := { s.params with cycleRows := rows } }

/-- The same fault, with the state it leaves recounted. -/
def recountedFault (cycles : Nat) (rows : List CycleRow) : Fault → Fault
  | .unrecognizedOpcode op pc left => .unrecognizedOpcode op pc (recounted left cycles rows)
  | .unhandledOperand op pc left => .unhandledOperand op pc (recounted left cycles rows)
  | .uninitializedRead op pc left => .uninitializedRead op pc (recounted left cycles rows)

/-- The same refusal, with the state it leaves, if any, recounted. -/
def recountedRefusal (cycles : Nat) (rows : List CycleRow) : Refusal → Refusal
  | .docOnly op left => .docOnly op (recounted left cycles rows)
  | r => r

/-- The twelve bytes without a row (30_encoding.md R121). -/
def absentBytes : List Byte := [0x08, 0x10, 0x18, 0x20, 0x28, 0x30, 0x38, 0xCB, 0xD9, 0xDD, 0xED, 0xFD]

/-- No recorded fault and no refusal: a step can be taken (40_execute.md R151, case 1). -/
def live (s : State) : Bool := s.fault.isNone && !s.refusedMark

/-- At the start of this step an interrupt is accepted (40_execute.md R151, case 2). -/
def interruptedNow (s : State) : Bool :=
  s.request.isSome && decide (s.params.irqModel = .rstAny) && s.inte && !s.eiShadow

end Sys2Proof.Claims

open Sys2Proof.Claims

/-- One word of every format decodes to its instruction. A word of each of the seventeen formats of 30_encoding.md
R111, in the order of its table and three words of IMPLIED, written out bit by bit. -/
def Obligations.WordsOfEveryFamilyDecode : Prop :=
  decode [0b01110111#8] = .ok (.mov .m (.reg .a), []) ∧
  decode [0b10000000#8] = .ok (.add (.reg .b), []) ∧
  decode [0b11100110#8, 0x0F#8] = .ok (.ani 0x0F#8, []) ∧
  decode [0b00001101#8] = .ok (.dcr (.reg .c), []) ∧
  decode [0b00111110#8, 0x5A#8] = .ok (.mvi (.reg .a) 0x5A#8, []) ∧
  decode [0b00100001#8, 0x45#8, 0x23#8] = .ok (.lxi .hl 0x2345#16, []) ∧
  decode [0b00111001#8] = .ok (.dad .sp, []) ∧
  decode [0b00011010#8] = .ok (.ldax .de, []) ∧
  decode [0b00110010#8, 0x34#8, 0x12#8] = .ok (.sta 0x1234#16, []) ∧
  decode [0b00100111#8] = .ok (.daa, []) ∧
  decode [0b00001111#8] = .ok (.rrc, []) ∧
  decode [0b01110110#8] = .ok (.hlt, []) ∧
  decode [0b11110101#8] = .ok (.push .psw, []) ∧
  decode [0b11000000#8] = .ok (.rnz, []) ∧
  decode [0b11011010#8, 0x00#8, 0x02#8] = .ok (.jc 0x0200#16, []) ∧
  decode [0b11001100#8, 0x00#8, 0x20#8] = .ok (.cz 0x2000#16, []) ∧
  decode [0b11000011#8, 0xCD#8, 0xAB#8] = .ok (.jmp 0xABCD#16, []) ∧
  decode [0b11101111#8] = .ok (.rst 5, []) ∧
  decode [0b11011011#8, 0x01#8] = .ok (.inp 0x01#8, [])

/-- Decoding the encoding of a well-formed instruction gives it back. Every well-formed instruction, with every
operand value, is read back from its bytes, whatever bytes follow. The decoder is the map of 30_encoding.md R120, the
encoder the formats of R111 to R119. -/
def Obligations.DecodeEncodeRoundTrip : Prop :=
  ∀ (i : Instr) (rest : List Byte), i.wellFormed = true → decode (encode i ++ rest) = .ok (i, rest)

/-- What decodes is well formed and re-encodes to the same bytes. Each word has one meaning: what the decoder accepts
is well formed, and its bytes are the encoding of what it answers. -/
def Obligations.DecodedBytesAreTheEncoding : Prop :=
  ∀ (bytes rest : List Byte) (i : Instr), decode bytes = .ok (i, rest) → i.wellFormed = true ∧ bytes = encode i ++ rest

/-- Exactly twelve opcode bytes have no instruction. Which bytes are absent is the spec's own decision D3
(30_encoding.md R121). -/
def Obligations.ExactlyTwelveOpcodesAreAbsent : Prop :=
  ∀ (op : Byte) (a b : Byte),
    (decode [op, a, b] = .error (.absentOpcode op) ↔ op ∈ absentBytes) ∧
    (op ∉ absentBytes → ∃ i rest, decode [op, a, b] = .ok (i, rest))

/-- A step runs the instruction decoded at PC. 40_execute.md R150 and R151 case 4. What the step adds around `exec`:
the interrupt input has been sampled. -/
def Obligations.StepRunsTheDecodedInstruction : Prop :=
  ∀ (s : State) (i : Instr) (rest : List Byte),
    live s = true → interruptedNow s = false → s.halted = false →
    decode [s.read s.pc, s.read (s.pc + 1#16), s.read (s.pc + 2#16)] = .ok (i, rest) →
    (s.params.admitGk = .all ∨ documented i = true) →
    (∀ l, l ∈ readsOf s i → l ∉ s.unset) →
      step s = exec i s.sampled

/-- Reset leaves every register, flag and control bit at zero. 10_state.md R50, the spec's decision D5; that no byte
of memory is listed and that an unlisted byte reads 0 is the model's choice (log 1). -/
def Obligations.ResetLeavesTheZeroContract : Prop :=
  (∀ r, State.reset.reg r = 0#8) ∧ (∀ f, State.reset.flag f = false) ∧
  State.reset.pc = 0#16 ∧ State.reset.sp = 0#16 ∧ State.reset.inte = false ∧ State.reset.eiShadow = false ∧
  State.reset.halted = false ∧ State.reset.fault = none ∧ State.reset.refusedMark = false ∧
  State.reset.unset = [] ∧ (∀ a, State.reset.read a = 0#8)

/-- The invariant holds after reset. The invariant `State.Inv` of Safety.lean holds after reset. -/
def Obligations.ResetMeetsTheInvariant : Prop :=
  State.reset.Inv

/-- Every step keeps the invariant. `State.Inv`: canonical memory (20_memory.md R70), the EI shadow only while INTE is
set and never while halted (40_execute.md R156), every place defined under `RESET_MODE = zero` (10_state.md R50). -/
def Obligations.EveryStepKeepsTheInvariant : Prop :=
  ∀ (s t : State), s.Inv → step s = .next t → t.Inv

/-- A completed step changes no parameter and leaves no fault. A step is taken only from a state without fault or
refusal, and a completed step leaves none; the parameters are fixed for a run (70_reset_and_hazards.md R446). -/
def Obligations.StepsKeepParametersAndLiveness : Prop :=
  ∀ (s t : State), step s = .next t →
    t.params = s.params ∧ live s = true ∧ live t = true ∧ s.events <+: t.events

/-- No completed step depends on a place that holds no value. Under `RESET_MODE = undefined` (the spec's decision D5,
60_exceptions.md R405, 70_reset_and_hazards.md R441) no completed step depends on a register or flag that holds no
value. Derived: the spec's own sentence is that a claim that holds under `undefined` holds for every initial value. -/
def Obligations.UndefinedPlacesNeverInfluenceAStep : Prop :=
  ∀ (s s' t : State), AgreeOnDefined s s' → step s = .next t →
    ∃ t', step s' = .next t' ∧ AgreeOnDefined t t'

/-- A written byte reads back, and no other byte changes. 20_memory.md R73: only the addressed byte changes. (That
every address is writable is decision D19.) -/
def Obligations.WrittenByteReadsBackAlone : Prop :=
  ∀ (s : State) (a : Word) (v : Byte),
    (s.write a v).read a = v ∧ (∀ b, b ≠ a → (s.write a v).read b = s.read b) ∧ Frame [] [a] s (s.write a v) ∧
      (s.write a v).pc = s.pc

/-- Push16 and Pop16 move a word, high byte first, and invert each other. 20_memory.md R80 and R81. -/
def Obligations.PushAndPopMoveWords : Prop :=
  ∀ (s : State) (v : Word),
    Pushes s (s.push16 v) v ∧ Frame [.sp] (pushed s) s (s.push16 v) ∧
    Pops s s.drop16 s.top16 ∧ Frame [.sp] [] s s.drop16 ∧
    (s.push16 v).top16 = v ∧ (s.push16 v).drop16.sp = s.sp

/-- ADD and ADI add to A and set all five flags. Every operand form of ADD and ADI. -/
def Obligations.AddSetsAccumulatorAndFlags : Prop :=
  ∀ (s : State),
    (∀ src : Operand, encode (.add src) = [0b10000#5 ++ src.code] ∧
      ∃ t, exec (.add src) s = .next t ∧ Added s t (s.src src) false ∧ t.pc = s.pc + 1#16) ∧
    (∀ d8 : Byte, encode (.adi d8) = [0xC6#8, d8] ∧
      ∃ t, exec (.adi d8) s = .next t ∧ Added s t d8 false ∧ t.pc = s.pc + 2#16)

/-- ADC and ACI add the operand and the old carry. Every operand form of ADC and ACI. -/
def Obligations.AdcAddsTheCarryToo : Prop :=
  ∀ (s : State),
    (∀ src : Operand, encode (.adc src) = [0b10001#5 ++ src.code] ∧
      ∃ t, exec (.adc src) s = .next t ∧ Added s t (s.src src) (s.flag .cy) ∧ t.pc = s.pc + 1#16) ∧
    (∀ d8 : Byte, encode (.aci d8) = [0xCE#8, d8] ∧
      ∃ t, exec (.aci d8) s = .next t ∧ Added s t d8 (s.flag .cy) ∧ t.pc = s.pc + 2#16)

/-- SUB and SUI subtract from A and set all five flags. Every operand form of SUB and SUI. -/
def Obligations.SubSetsAccumulatorAndBorrows : Prop :=
  ∀ (s : State),
    (∀ src : Operand, encode (.sub src) = [0b10010#5 ++ src.code] ∧
      ∃ t, exec (.sub src) s = .next t ∧ Subtracted s t (s.src src) false ∧ t.pc = s.pc + 1#16) ∧
    (∀ d8 : Byte, encode (.sui d8) = [0xD6#8, d8] ∧
      ∃ t, exec (.sui d8) s = .next t ∧ Subtracted s t d8 false ∧ t.pc = s.pc + 2#16)

/-- SBB and SBI subtract the operand and the old carry. Every operand form of SBB and SBI. -/
def Obligations.SbbSubtractsTheBorrowToo : Prop :=
  ∀ (s : State),
    (∀ src : Operand, encode (.sbb src) = [0b10011#5 ++ src.code] ∧
      ∃ t, exec (.sbb src) s = .next t ∧ Subtracted s t (s.src src) (s.flag .cy) ∧ t.pc = s.pc + 1#16) ∧
    (∀ d8 : Byte, encode (.sbi d8) = [0xDE#8, d8] ∧
      ∃ t, exec (.sbi d8) s = .next t ∧ Subtracted s t d8 (s.flag .cy) ∧ t.pc = s.pc + 2#16)

/-- CMP and CPI set the flags of a subtraction and keep A. Every operand form of CMP and CPI. -/
def Obligations.CmpSetsFlagsAndKeepsAccumulator : Prop :=
  ∀ (s : State),
    (∀ src : Operand, encode (.cmp src) = [0b10111#5 ++ src.code] ∧
      ∃ t, exec (.cmp src) s = .next t ∧ Compared s t (s.src src) ∧ t.pc = s.pc + 1#16) ∧
    (∀ d8 : Byte, encode (.cpi d8) = [0xFE#8, d8] ∧
      ∃ t, exec (.cpi d8) s = .next t ∧ Compared s t d8 ∧ t.pc = s.pc + 2#16)

/-- INR adds 1 to a register or M and keeps CY. CY is not written. -/
def Obligations.InrIncrementsAndKeepsCarry : Prop :=
  ∀ (s : State),
    (∀ r : Reg, encode (.inr (.reg r)) = [0b00#2 ++ r.code ++ 0b100#3] ∧
      ∃ t, exec (.inr (.reg r)) s = .next t ∧ (t.reg r).toNat = ((s.reg r).toNat + 1) % 256 ∧
        t.flag .ac = decide (nibble (t.reg r) = 0) ∧ ResultFlags t (t.reg r) ∧ t.pc = s.pc + 1#16 ∧
        Frame (.reg r :: countFlags) [] s t) ∧
    (encode (.inr .m) = [0x34#8] ∧
      ∃ t, exec (.inr .m) s = .next t ∧
        (t.read (s.pair .hl)).toNat = ((s.read (s.pair .hl)).toNat + 1) % 256 ∧
        t.flag .ac = decide (nibble (t.read (s.pair .hl)) = 0) ∧ ResultFlags t (t.read (s.pair .hl)) ∧ t.pc = s.pc + 1#16 ∧
        Frame countFlags [s.pair .hl] s t)

/-- DCR subtracts 1 from a register or M and keeps CY. CY is not written. -/
def Obligations.DcrDecrementsAndKeepsCarry : Prop :=
  ∀ (s : State),
    (∀ r : Reg, encode (.dcr (.reg r)) = [0b00#2 ++ r.code ++ 0b101#3] ∧
      ∃ t, exec (.dcr (.reg r)) s = .next t ∧ (t.reg r).toNat = ((s.reg r).toNat + 255) % 256 ∧
        t.flag .ac = (decide (nibble (t.reg r) = 15) ^^ decide (s.params.acPolicy = .silicon8080)) ∧ ResultFlags t (t.reg r) ∧ t.pc = s.pc + 1#16 ∧
        Frame (.reg r :: countFlags) [] s t) ∧
    (encode (.dcr .m) = [0x35#8] ∧
      ∃ t, exec (.dcr .m) s = .next t ∧
        (t.read (s.pair .hl)).toNat = ((s.read (s.pair .hl)).toNat + 255) % 256 ∧
        t.flag .ac = (decide (nibble (t.read (s.pair .hl)) = 15) ^^ decide (s.params.acPolicy = .silicon8080)) ∧ ResultFlags t (t.read (s.pair .hl)) ∧ t.pc = s.pc + 1#16 ∧
        Frame countFlags [s.pair .hl] s t)

/-- DAA adds 6 and 0x60 as the nibbles and carries ask. 41_arithmetic.md R210 with the spec's decisions D7 (step 1 may
set CY) and D8 (CY is never cleared), as a closed form: 6 is added when AC is set or the low nibble exceeds 9; 0x60 is
added when CY is set or A exceeds 0x99. -/
def Obligations.DaaAdjustsInTwoSteps : Prop :=
  encode .daa = [0x27#8] ∧ ∀ (s : State), ∃ t, exec .daa s = .next t ∧
    (let a := (s.reg .a).toNat
     let low := s.flag .ac || decide (9 < a % 16)
     let high := s.flag .cy || decide (0x99 < a)
     (t.reg .a).toNat = (a + (if low then 6 else 0) + (if high then 0x60 else 0)) % 256 ∧
     t.flag .cy = high ∧ t.flag .ac = decide (9 < a % 16)) ∧
    ResultFlags t (t.reg .a) ∧ t.pc = s.pc + 1#16 ∧ Frame (.reg .a :: allFlags) [] s t

/-- ACI then DAA adds packed decimal bytes exactly. What DAA is for: packed decimal addition with carry, byte by byte.
Derived from 41_arithmetic.md R185 and R210 (decisions D7, D8). -/
def Obligations.DecimalAdditionIsExact : Prop :=
  ∀ (s : State) (y : Byte), packed (s.reg .a) = true → packed y = true →
    ∃ t u, exec (.aci y) s = .next t ∧ exec .daa t = .next u ∧ packed (u.reg .a) = true ∧
      decimal (u.reg .a) = (decimal (s.reg .a) + decimal y + bit (s.flag .cy)) % 100 ∧
      u.flag .cy = decide (99 < decimal (s.reg .a) + decimal y + bit (s.flag .cy))

/-- SUB then ADD restores A, DCR then INR restores the operand. 41_arithmetic.md R213 (b) and (d), over every operand:
SUB then ADD of the same byte, and DCR then INR of the same operand, M included. -/
def Obligations.OppositeOperationsRestoreOperands : Prop :=
  ∀ (s : State),
    (∀ d8 : Byte, ∃ t, andThen (.sui d8) (.adi d8) s = .next t ∧ t.reg .a = s.reg .a) ∧
    (∀ r : Reg, r ≠ .a → ∃ t, andThen (.sub (.reg r)) (.add (.reg r)) s = .next t ∧ t.reg .a = s.reg .a) ∧
    (∀ r : Reg, ∃ t, andThen (.dcr (.reg r)) (.inr (.reg r)) s = .next t ∧ t.reg r = s.reg r ∧
      t.flag .cy = s.flag .cy) ∧
    (∃ t, andThen (.dcr .m) (.inr .m) s = .next t ∧ t.read (s.pair .hl) = s.read (s.pair .hl) ∧
      t.flag .cy = s.flag .cy)

/-- ANA and ANI AND into A and clear CY. Every operand form of ANA and ANI. -/
def Obligations.AnaClearsCarry : Prop :=
  ∀ (s : State),
    (∀ src : Operand, encode (.ana src) = [0b10100#5 ++ src.code] ∧
      ∃ t, exec (.ana src) s = .next t ∧ Combined s t (s.reg .a &&& (s.src src)) (andAux s (s.src src)) ∧ t.pc = s.pc + 1#16) ∧
    (∀ d8 : Byte, encode (.ani d8) = [0xE6#8, d8] ∧
      ∃ t, exec (.ani d8) s = .next t ∧ Combined s t (s.reg .a &&& d8) (andAux s d8) ∧ t.pc = s.pc + 2#16)

/-- XRA and XRI exclusive-OR into A and clear CY and AC. Every operand form of XRA and XRI. -/
def Obligations.XraClearsBothCarries : Prop :=
  ∀ (s : State),
    (∀ src : Operand, encode (.xra src) = [0b10101#5 ++ src.code] ∧
      ∃ t, exec (.xra src) s = .next t ∧ Combined s t (s.reg .a ^^^ (s.src src)) false ∧ t.pc = s.pc + 1#16) ∧
    (∀ d8 : Byte, encode (.xri d8) = [0xEE#8, d8] ∧
      ∃ t, exec (.xri d8) s = .next t ∧ Combined s t (s.reg .a ^^^ d8) false ∧ t.pc = s.pc + 2#16)

/-- ORA and ORI OR into A and clear CY and AC. Every operand form of ORA and ORI. -/
def Obligations.OraClearsBothCarries : Prop :=
  ∀ (s : State),
    (∀ src : Operand, encode (.ora src) = [0b10110#5 ++ src.code] ∧
      ∃ t, exec (.ora src) s = .next t ∧ Combined s t (s.reg .a ||| (s.src src)) false ∧ t.pc = s.pc + 1#16) ∧
    (∀ d8 : Byte, encode (.ori d8) = [0xF6#8, d8] ∧
      ∃ t, exec (.ori d8) s = .next t ∧ Combined s t (s.reg .a ||| d8) false ∧ t.pc = s.pc + 2#16)

/-- CMA complements A, CMC and STC write CY only. CMA, CMC and STC (42_logical_rotate.md R240 to R242). -/
def Obligations.ComplementAndCarryControl : Prop :=
  ∀ (s : State),
    (encode .cma = [0x2F#8] ∧ ∃ t, exec .cma s = .next t ∧ (t.reg .a).toNat = 255 - (s.reg .a).toNat ∧
      t.pc = s.pc + 1#16 ∧ Frame [.reg .a] [] s t) ∧
    (encode .cmc = [0x3F#8] ∧ ∃ t, exec .cmc s = .next t ∧ t.flag .cy = !s.flag .cy ∧
      t.pc = s.pc + 1#16 ∧ Frame [.flag .cy] [] s t) ∧
    (encode .stc = [0x37#8] ∧ ∃ t, exec .stc s = .next t ∧ t.flag .cy = true ∧
      t.pc = s.pc + 1#16 ∧ Frame [.flag .cy] [] s t)

/-- RLC, RRC, RAL and RAR rotate A and write CY only. The four rotations, bit by bit (42_logical_rotate.md R245 to
R248). -/
def Obligations.RotatesMoveBitsThroughCarry : Prop :=
  ∀ (s : State),
    (encode .rlc = [0x07#8] ∧ ∃ t, exec .rlc s = .next t ∧ t.flag .cy = (s.reg .a).getLsbD 7 ∧
      (t.reg .a).getLsbD 0 = (s.reg .a).getLsbD 7 ∧
      (∀ k, k < 7 → (t.reg .a).getLsbD (k + 1) = (s.reg .a).getLsbD k) ∧
      t.pc = s.pc + 1#16 ∧ Frame [.reg .a, .flag .cy] [] s t) ∧
    (encode .rrc = [0x0F#8] ∧ ∃ t, exec .rrc s = .next t ∧ t.flag .cy = (s.reg .a).getLsbD 0 ∧
      (t.reg .a).getLsbD 7 = (s.reg .a).getLsbD 0 ∧
      (∀ k, k < 7 → (t.reg .a).getLsbD k = (s.reg .a).getLsbD (k + 1)) ∧
      t.pc = s.pc + 1#16 ∧ Frame [.reg .a, .flag .cy] [] s t) ∧
    (encode .ral = [0x17#8] ∧ ∃ t, exec .ral s = .next t ∧ t.flag .cy = (s.reg .a).getLsbD 7 ∧
      (t.reg .a).getLsbD 0 = s.flag .cy ∧
      (∀ k, k < 7 → (t.reg .a).getLsbD (k + 1) = (s.reg .a).getLsbD k) ∧
      t.pc = s.pc + 1#16 ∧ Frame [.reg .a, .flag .cy] [] s t) ∧
    (encode .rar = [0x1F#8] ∧ ∃ t, exec .rar s = .next t ∧ t.flag .cy = (s.reg .a).getLsbD 0 ∧
      (t.reg .a).getLsbD 7 = s.flag .cy ∧
      (∀ k, k < 7 → (t.reg .a).getLsbD k = (s.reg .a).getLsbD (k + 1)) ∧
      t.pc = s.pc + 1#16 ∧ Frame [.reg .a, .flag .cy] [] s t)

/-- Eight RLCs, eight RRCs, nine RALs, and RAL with RAR restore A. 42_logical_rotate.md R250, which the spec derives,
and the corner case of R247: nine RALs restore A and CY. -/
def Obligations.RotateLaws : Prop :=
  ∀ (s : State),
    (∃ t, times .rlc 8 s = .next t ∧ t.reg .a = s.reg .a ∧ t.flag .cy = (s.reg .a).getLsbD 0) ∧
    (∃ t, times .rrc 8 s = .next t ∧ t.reg .a = s.reg .a ∧ t.flag .cy = (s.reg .a).getLsbD 7) ∧
    (∃ t, times .ral 9 s = .next t ∧ t.reg .a = s.reg .a ∧ t.flag .cy = s.flag .cy) ∧
    (∃ t, andThen .ral .rar s = .next t ∧ t.reg .a = s.reg .a ∧ t.flag .cy = s.flag .cy) ∧
    (∃ t, andThen .rar .ral s = .next t ∧ t.reg .a = s.reg .a ∧ t.flag .cy = s.flag .cy)

/-- MOV copies a byte between registers, or between a register and M. The three forms of MOV; there is no MOV M,M. -/
def Obligations.MovCopiesOneByte : Prop :=
  ∀ (s : State),
    (∀ r1 r2 : Reg, encode (.mov (.reg r1) (.reg r2)) = [0b01#2 ++ r1.code ++ r2.code] ∧
      ∃ t, exec (.mov (.reg r1) (.reg r2)) s = .next t ∧ t.reg r1 = s.reg r2 ∧
        t.pc = s.pc + 1#16 ∧ Frame [.reg r1] [] s t) ∧
    (∀ r : Reg, encode (.mov (.reg r) .m) = [0b01#2 ++ r.code ++ 0b110#3] ∧
      ∃ t, exec (.mov (.reg r) .m) s = .next t ∧ t.reg r = s.read (s.pair .hl) ∧
        t.pc = s.pc + 1#16 ∧ Frame [.reg r] [] s t) ∧
    (∀ r : Reg, encode (.mov .m (.reg r)) = [0b01110#5 ++ r.code] ∧
      ∃ t, exec (.mov .m (.reg r)) s = .next t ∧ t.read (s.pair .hl) = s.reg r ∧
        t.pc = s.pc + 1#16 ∧ Frame [] [s.pair .hl] s t)

/-- MVI and LXI load their immediate operand. MVI r, MVI M and LXI (43_data_transfer.md R263 to R265), which the spec
marks as general knowledge. -/
def Obligations.ImmediateLoads : Prop :=
  ∀ (s : State),
    (∀ (r : Reg) (d8 : Byte), encode (.mvi (.reg r) d8) = [0b00#2 ++ r.code ++ 0b110#3, d8] ∧
      ∃ t, exec (.mvi (.reg r) d8) s = .next t ∧ t.reg r = d8 ∧ t.pc = s.pc + 2#16 ∧ Frame [.reg r] [] s t) ∧
    (∀ d8 : Byte, encode (.mvi .m d8) = [0x36#8, d8] ∧
      ∃ t, exec (.mvi .m d8) s = .next t ∧ t.read (s.pair .hl) = d8 ∧
        t.pc = s.pc + 2#16 ∧ Frame [] [s.pair .hl] s t) ∧
    (∀ lo hi : Byte,
      (encode (.lxi .bc (joinBytes hi lo)) = [0x01#8, lo, hi] ∧ ∃ t, exec (.lxi .bc (joinBytes hi lo)) s = .next t ∧
        t.reg .b = hi ∧ t.reg .c = lo ∧ t.pc = s.pc + 3#16 ∧ Frame [.reg .b, .reg .c] [] s t) ∧
      (encode (.lxi .de (joinBytes hi lo)) = [0x11#8, lo, hi] ∧ ∃ t, exec (.lxi .de (joinBytes hi lo)) s = .next t ∧
        t.reg .d = hi ∧ t.reg .e = lo ∧ t.pc = s.pc + 3#16 ∧ Frame [.reg .d, .reg .e] [] s t) ∧
      (encode (.lxi .hl (joinBytes hi lo)) = [0x21#8, lo, hi] ∧ ∃ t, exec (.lxi .hl (joinBytes hi lo)) s = .next t ∧
        t.reg .h = hi ∧ t.reg .l = lo ∧ t.pc = s.pc + 3#16 ∧ Frame [.reg .h, .reg .l] [] s t) ∧
      (encode (.lxi .sp (joinBytes hi lo)) = [0x31#8, lo, hi] ∧ ∃ t, exec (.lxi .sp (joinBytes hi lo)) s = .next t ∧
        t.sp.toNat = hi.toNat * 256 + lo.toNat ∧ t.pc = s.pc + 3#16 ∧ Frame [.sp] [] s t))

/-- LDA, STA, LHLD and SHLD move A or HL to and from a direct address. LDA, STA, LHLD and SHLD (43_data_transfer.md
R266 to R269), which the spec marks as general knowledge; the second address wraps. -/
def Obligations.DirectLoadsAndStores : Prop :=
  ∀ (s : State) (a16 : Word),
    (encode (.lda a16) = [0x3A#8, BitVec.ofNat 8 a16.toNat, BitVec.ofNat 8 (a16.toNat / 256)] ∧
      ∃ t, exec (.lda a16) s = .next t ∧ t.reg .a = s.read a16 ∧ t.pc = s.pc + 3#16 ∧ Frame [.reg .a] [] s t) ∧
    (encode (.sta a16) = [0x32#8, BitVec.ofNat 8 a16.toNat, BitVec.ofNat 8 (a16.toNat / 256)] ∧
      ∃ t, exec (.sta a16) s = .next t ∧ t.read a16 = s.reg .a ∧ t.pc = s.pc + 3#16 ∧ Frame [] [a16] s t) ∧
    (encode (.lhld a16) = [0x2A#8, BitVec.ofNat 8 a16.toNat, BitVec.ofNat 8 (a16.toNat / 256)] ∧
      ∃ t, exec (.lhld a16) s = .next t ∧ t.reg .l = s.read a16 ∧ t.reg .h = s.read (a16 + 1#16) ∧
        t.pc = s.pc + 3#16 ∧ Frame [.reg .h, .reg .l] [] s t) ∧
    (encode (.shld a16) = [0x22#8, BitVec.ofNat 8 a16.toNat, BitVec.ofNat 8 (a16.toNat / 256)] ∧
      ∃ t, exec (.shld a16) s = .next t ∧ t.read a16 = s.reg .l ∧ t.read (a16 + 1#16) = s.reg .h ∧
        t.pc = s.pc + 3#16 ∧ Frame [] [a16, a16 + 1#16] s t)

/-- LDAX and STAX move A through BC or DE. LDAX and STAX through BC and DE, their only two pairs. -/
def Obligations.IndirectLoadsAndStores : Prop :=
  ∀ (s : State),
    (encode (.ldax .bc) = [0x0A#8] ∧ ∃ t, exec (.ldax .bc) s = .next t ∧ t.reg .a = s.read (s.pair .bc) ∧
      t.pc = s.pc + 1#16 ∧ Frame [.reg .a] [] s t) ∧
    (encode (.ldax .de) = [0x1A#8] ∧ ∃ t, exec (.ldax .de) s = .next t ∧ t.reg .a = s.read (s.pair .de) ∧
      t.pc = s.pc + 1#16 ∧ Frame [.reg .a] [] s t) ∧
    (encode (.stax .bc) = [0x02#8] ∧ ∃ t, exec (.stax .bc) s = .next t ∧ t.read (s.pair .bc) = s.reg .a ∧
      t.pc = s.pc + 1#16 ∧ Frame [] [s.pair .bc] s t) ∧
    (encode (.stax .de) = [0x12#8] ∧ ∃ t, exec (.stax .de) s = .next t ∧ t.read (s.pair .de) = s.reg .a ∧
      t.pc = s.pc + 1#16 ∧ Frame [] [s.pair .de] s t)

/-- XCHG swaps HL with DE, XTHL swaps HL with the top of the stack. XCHG and XTHL (43_data_transfer.md R272,
45_stack.md R305); that XTHL reads both bytes before it writes is the spec's decision D20. -/
def Obligations.ExchangesSwapWords : Prop :=
  ∀ (s : State),
    (encode .xchg = [0xEB#8] ∧ ∃ t, exec .xchg s = .next t ∧ t.reg .h = s.reg .d ∧ t.reg .l = s.reg .e ∧
      t.reg .d = s.reg .h ∧ t.reg .e = s.reg .l ∧ t.pc = s.pc + 1#16 ∧
      Frame [.reg .h, .reg .l, .reg .d, .reg .e] [] s t) ∧
    (encode .xthl = [0xE3#8] ∧ ∃ t, exec .xthl s = .next t ∧ t.reg .l = s.read s.sp ∧
      t.reg .h = s.read (s.sp + 1#16) ∧ t.read s.sp = s.reg .l ∧ t.read (s.sp + 1#16) = s.reg .h ∧
      t.pc = s.pc + 1#16 ∧ Frame [.reg .h, .reg .l] [s.sp, s.sp + 1#16] s t)

/-- INX and DCX count a pair up and down modulo 65536 with no flag. Every pair and SP; no flag. -/
def Obligations.InxAndDcxCountPairs : Prop :=
  ∀ (s : State) (pair : RegPair),
    (encode (.inx pair) = [0b00#2 ++ pair.code ++ 0b0011#4] ∧ ∃ t, exec (.inx pair) s = .next t ∧
      (t.pair pair).toNat = ((s.pair pair).toNat + 1) % 65536 ∧ t.pc = s.pc + 1#16 ∧
      Frame (pairReads pair) [] s t) ∧
    (encode (.dcx pair) = [0b00#2 ++ pair.code ++ 0b1011#4] ∧ ∃ t, exec (.dcx pair) s = .next t ∧
      (t.pair pair).toNat = ((s.pair pair).toNat + 65535) % 65536 ∧ t.pc = s.pc + 1#16 ∧
      Frame (pairReads pair) [] s t)

/-- DAD adds a pair into HL and writes CY only. Every pair and SP; CY only. -/
def Obligations.DadAddsPairToHl : Prop :=
  ∀ (s : State) (pair : RegPair),
    encode (.dad pair) = [0b00#2 ++ pair.code ++ 0b1001#4] ∧ ∃ t, exec (.dad pair) s = .next t ∧
      (t.pair .hl).toNat = ((s.pair .hl).toNat + (s.pair pair).toNat) % 65536 ∧
      t.flag .cy = decide (65535 < (s.pair .hl).toNat + (s.pair pair).toNat) ∧ t.pc = s.pc + 1#16 ∧
      Frame [.reg .h, .reg .l, .flag .cy] [] s t

/-- PUSH stores BC, DE or HL below SP. PUSH B, PUSH D and PUSH H. -/
def Obligations.PushStoresAPair : Prop :=
  ∀ (s : State),
    (encode (.push .bc) = [0xC5#8] ∧ ∃ t, exec (.push .bc) s = .next t ∧ t.read (s.sp - 1#16) = s.reg .b ∧
      t.read (s.sp - 2#16) = s.reg .c ∧ t.sp = s.sp - 2#16 ∧ t.pc = s.pc + 1#16 ∧ Frame [.sp] (pushed s) s t) ∧
    (encode (.push .de) = [0xD5#8] ∧ ∃ t, exec (.push .de) s = .next t ∧ t.read (s.sp - 1#16) = s.reg .d ∧
      t.read (s.sp - 2#16) = s.reg .e ∧ t.sp = s.sp - 2#16 ∧ t.pc = s.pc + 1#16 ∧ Frame [.sp] (pushed s) s t) ∧
    (encode (.push .hl) = [0xE5#8] ∧ ∃ t, exec (.push .hl) s = .next t ∧ t.read (s.sp - 1#16) = s.reg .h ∧
      t.read (s.sp - 2#16) = s.reg .l ∧ t.sp = s.sp - 2#16 ∧ t.pc = s.pc + 1#16 ∧ Frame [.sp] (pushed s) s t)

/-- PUSH PSW stores A and the flag byte. 45_stack.md R301; the fixed bits 5, 3 and 1 of the flag byte are the spec's
decision D6. -/
def Obligations.PushPswStoresTheFlagByte : Prop :=
  ∀ (s : State), encode (.push .psw) = [0xF5#8] ∧ ∃ t, exec (.push .psw) s = .next t ∧
    t.read (s.sp - 1#16) = s.reg .a ∧
    (t.read (s.sp - 2#16)).toNat = bit (s.flag .s) * 128 + bit (s.flag .z) * 64 + bit (s.flag .ac) * 16
      + bit (s.flag .p) * 4 + 2 + bit (s.flag .cy) ∧
    t.sp = s.sp - 2#16 ∧ t.pc = s.pc + 1#16 ∧ Frame [.sp] (pushed s) s t

/-- POP loads BC, DE or HL from the stack. POP B, POP D and POP H. -/
def Obligations.PopLoadsAPair : Prop :=
  ∀ (s : State),
    (encode (.pop .bc) = [0xC1#8] ∧ ∃ t, exec (.pop .bc) s = .next t ∧ t.reg .c = s.read s.sp ∧
      t.reg .b = s.read (s.sp + 1#16) ∧ t.sp = s.sp + 2#16 ∧ t.pc = s.pc + 1#16 ∧
      Frame [.reg .b, .reg .c, .sp] [] s t) ∧
    (encode (.pop .de) = [0xD1#8] ∧ ∃ t, exec (.pop .de) s = .next t ∧ t.reg .e = s.read s.sp ∧
      t.reg .d = s.read (s.sp + 1#16) ∧ t.sp = s.sp + 2#16 ∧ t.pc = s.pc + 1#16 ∧
      Frame [.reg .d, .reg .e, .sp] [] s t) ∧
    (encode (.pop .hl) = [0xE1#8] ∧ ∃ t, exec (.pop .hl) s = .next t ∧ t.reg .l = s.read s.sp ∧
      t.reg .h = s.read (s.sp + 1#16) ∧ t.sp = s.sp + 2#16 ∧ t.pc = s.pc + 1#16 ∧
      Frame [.reg .h, .reg .l, .sp] [] s t)

/-- POP PSW loads A and the five flags. POP PSW. -/
def Obligations.PopPswLoadsTheFlags : Prop :=
  ∀ (s : State), encode (.pop .psw) = [0xF1#8] ∧ ∃ t, exec (.pop .psw) s = .next t ∧
    t.reg .a = s.read (s.sp + 1#16) ∧
    t.flag .s = (s.read s.sp).getLsbD 7 ∧ t.flag .z = (s.read s.sp).getLsbD 6 ∧
    t.flag .ac = (s.read s.sp).getLsbD 4 ∧ t.flag .p = (s.read s.sp).getLsbD 2 ∧
    t.flag .cy = (s.read s.sp).getLsbD 0 ∧
    t.flags.toByte = (s.read s.sp &&& 0xD5#8) ||| 0x02#8 ∧
    t.sp = s.sp + 2#16 ∧ t.pc = s.pc + 1#16 ∧ Frame (.sp :: .reg .a :: allFlags) [] s t

/-- PUSH then POP copies a pair and restores SP. 45_stack.md R304, over every pair and every SP: what is popped is
what was pushed, and SP is back. -/
def Obligations.PushThenPopCopiesAPair : Prop :=
  ∀ (s : State) (p q : StackPair), ∃ t, andThen (.push p) (.pop q) s = .next t ∧ t.sp = s.sp ∧
    (t.stackPair q = if q = .psw ∧ p ≠ .psw then
      joinBytes (hiByte (s.stackPair p)) ((loByte (s.stackPair p) &&& 0xD5#8) ||| 0x02#8) else s.stackPair p) ∧
    (p = q → (∀ r, t.reg r = s.reg r) ∧ (∀ f, t.flag f = s.flag f))

/-- SPHL loads SP from HL. SPHL. -/
def Obligations.SphlCopiesHlToSp : Prop :=
  ∀ (s : State), encode .sphl = [0xF9#8] ∧ ∃ t, exec .sphl s = .next t ∧
    t.sp.toNat = (s.reg .h).toNat * 256 + (s.reg .l).toNat ∧ t.pc = s.pc + 1#16 ∧ Frame [.sp] [] s t

/-- JMP and the eight conditional jumps set PC. 46_control_flow.md R321 to R329. The counts are those of the default
`CYCLES`, general knowledge and decision D17 (70_reset_and_hazards.md R456, log 12). -/
def Obligations.JumpsFollowTheirCondition : Prop :=
  Jumps .jmp 0xC3#8 (fun _ => true) ∧
  Jumps .jnz 0xC2#8 (fun s => !s.flag .z) ∧
  Jumps .jz 0xCA#8 (fun s => s.flag .z) ∧
  Jumps .jnc 0xD2#8 (fun s => !s.flag .cy) ∧
  Jumps .jc 0xDA#8 (fun s => s.flag .cy) ∧
  Jumps .jpo 0xE2#8 (fun s => !s.flag .p) ∧
  Jumps .jpe 0xEA#8 (fun s => s.flag .p) ∧
  Jumps .jp 0xF2#8 (fun s => !s.flag .s) ∧
  Jumps .jm 0xFA#8 (fun s => s.flag .s)

/-- CALL and the eight conditional calls push start + 3 and set PC. 46_control_flow.md R330 to R338. The counts are
those of the default `CYCLES`, general knowledge and decision D17 (70_reset_and_hazards.md R456, log 12). -/
def Obligations.CallsPushTheReturnAddress : Prop :=
  Calls .call 0xCD#8 (fun _ => true) ∧
  Calls .cnz 0xC4#8 (fun s => !s.flag .z) ∧
  Calls .cz 0xCC#8 (fun s => s.flag .z) ∧
  Calls .cnc 0xD4#8 (fun s => !s.flag .cy) ∧
  Calls .cc 0xDC#8 (fun s => s.flag .cy) ∧
  Calls .cpo 0xE4#8 (fun s => !s.flag .p) ∧
  Calls .cpe 0xEC#8 (fun s => s.flag .p) ∧
  Calls .cp 0xF4#8 (fun s => !s.flag .s) ∧
  Calls .cm 0xFC#8 (fun s => s.flag .s)

/-- RET and the eight conditional returns pop PC. 46_control_flow.md R339 to R347. The counts are those of the default
`CYCLES`, general knowledge and decision D17 (70_reset_and_hazards.md R456, log 12). -/
def Obligations.ReturnsPopThePc : Prop :=
  Returns .ret 0xC9#8 (fun _ => true) 10 ∧
  Returns .rnz 0xC0#8 (fun s => !s.flag .z) 11 ∧
  Returns .rz 0xC8#8 (fun s => s.flag .z) 11 ∧
  Returns .rnc 0xD0#8 (fun s => !s.flag .cy) 11 ∧
  Returns .rc 0xD8#8 (fun s => s.flag .cy) 11 ∧
  Returns .rpo 0xE0#8 (fun s => !s.flag .p) 11 ∧
  Returns .rpe 0xE8#8 (fun s => s.flag .p) 11 ∧
  Returns .rp 0xF0#8 (fun s => !s.flag .s) 11 ∧
  Returns .rm 0xF8#8 (fun s => s.flag .s) 11

/-- RST n calls 8n and PCHL jumps to HL. RST n and PCHL (46_control_flow.md R348, R349), which the spec marks as
general knowledge. -/
def Obligations.RstAndPchlSetPc : Prop :=
  ∀ (s : State),
    (∀ n : BitVec 3, encode (.rst n) = [0b11#2 ++ n ++ 0b111#3] ∧ ∃ t, exec (.rst n) s = .next t ∧
      t.pc.toNat = 8 * n.toNat ∧ Pushes s t (s.pc + 1#16) ∧ Frame [.sp] (pushed s) s t) ∧
    (encode .pchl = [0xE9#8] ∧ ∃ t, exec .pchl s = .next t ∧
      t.pc.toNat = (s.reg .h).toNat * 256 + (s.reg .l).toNat ∧ Frame [] [] s t)

/-- A call and the return of its callee come back after the call. 46_control_flow.md R350 (1), which the spec derives:
a callee that gives SP and the two stack bytes back returns to the instruction after the call, with SP restored. -/
def Obligations.CallThenReturnComesBack : Prop :=
  ∀ (s u : State) (a : Word), ∃ t, exec (.call a) s = .next t ∧
    (u.sp = t.sp → u.read t.sp = t.read t.sp → u.read (t.sp + 1#16) = t.read (t.sp + 1#16) →
      ∃ v, exec .ret u = .next v ∧ v.pc = s.pc + 3#16 ∧ v.sp = s.sp)

/-- NOP advances PC and clears the EI shadow. NOP. -/
def Obligations.NopOnlyAdvancesPc : Prop :=
  ∀ (s : State), encode .nop = [0x00#8] ∧ ∃ t, exec .nop s = .next t ∧ t.pc = s.pc + 1#16 ∧
    t.eiShadow = false ∧ Frame [] [] s t

/-- HLT halts, EI enables with a shadow, DI disables. HLT, EI and DI (47_machine_control.md R371, R374, R375), which
are the spec's decisions D11, D12 and D14. -/
def Obligations.HltEiAndDiWriteControlState : Prop :=
  ∀ (s : State),
    (encode .hlt = [0x76#8] ∧ ∃ t, exec .hlt s = .next t ∧ t.halted = true ∧ t.inte = s.inte ∧
      t.eiShadow = false ∧ t.pc = s.pc + 1#16 ∧ Keeps [] [] s t ∧ KeepsIo s t ∧
      t.fault = s.fault ∧ t.refusedMark = s.refusedMark ∧ t.params = s.params) ∧
    (encode .ei = [0xFB#8] ∧ ∃ t, exec .ei s = .next t ∧ t.inte = true ∧ t.eiShadow = true ∧
      t.halted = s.halted ∧ t.pc = s.pc + 1#16 ∧ Keeps [] [] s t ∧ KeepsIo s t ∧
      t.fault = s.fault ∧ t.refusedMark = s.refusedMark ∧ t.params = s.params) ∧
    (encode .di = [0xF3#8] ∧ ∃ t, exec .di s = .next t ∧ t.inte = false ∧ t.eiShadow = false ∧
      t.halted = s.halted ∧ t.pc = s.pc + 1#16 ∧ Keeps [] [] s t ∧ KeepsIo s t ∧
      t.fault = s.fault ∧ t.refusedMark = s.refusedMark ∧ t.params = s.params)

/-- IN loads the environment's answer into A, OUT emits A. IN and OUT (47_machine_control.md R376, R377: general
knowledge and decision D16). The answer of an IN with no listed answer is the free value `Config.ioDraw`: the
statement holds for every value of it (log 9). -/
def Obligations.InAndOutMeetTheEnvironment : Prop :=
  ∀ (s : State) (p8 : Byte),
    (encode (.inp p8) = [0xDB#8, p8] ∧ ∃ t, exec (.inp p8) s = .next t ∧
      t.reg .a = (match s.env.inputs with | v :: _ => v | [] => Config.ioDraw s.env.draws) ∧
      t.events = s.events ++ [.inp p8 (t.reg .a)] ∧ t.env.requests = s.env.requests ∧
      t.env.inputs = s.env.inputs.tail ∧ t.env.draws = s.env.draws + 1 ∧ t.pc = s.pc + 2#16 ∧
      Keeps [.reg .a] [] s t ∧ KeepsControl s t) ∧
    (encode (.out p8) = [0xD3#8, p8] ∧ ∃ t, exec (.out p8) s = .next t ∧
      t.events = s.events ++ [.out p8 (s.reg .a)] ∧ t.env = s.env ∧ t.pc = s.pc + 2#16 ∧
      Keeps [] [] s t ∧ KeepsControl s t)

/-- An accepted interrupt pushes PC and goes to 8n. 60_exceptions.md R411 and R416 (the spec's decisions D13 and D14;
the count 11 is general knowledge and decision D29), when SP holds a value. -/
def Obligations.InterruptAcceptancePushesPc : Prop :=
  ∀ (s : State) (n : BitVec 3), live s = true → s.request = some n → s.params.irqModel = .rstAny →
    s.inte = true → s.eiShadow = false → Loc.sp ∉ s.unset →
    ∃ t, step s = .next t ∧ t.inte = false ∧ t.halted = false ∧ t.eiShadow = false ∧
      t.pc.toNat = 8 * n.toNat ∧ Pushes s t s.pc ∧ Keeps [.sp] (pushed s) s t ∧ t.events = s.events ∧
      t.params = s.params ∧ t.cycles = 11 ∧ (∀ l, l ∈ t.unset ↔ l ∈ s.unset)

/-- A masked interrupt request has no effect. 60_exceptions.md R410 (decisions D11, D12, D28): a request that is not
accepted changes nothing and is not remembered. -/
def Obligations.MaskedRequestsAreIgnored : Prop :=
  ∀ (s : State), s.fault = none → interruptedNow s = false →
    step s = step { s with env := { s.env with requests := none :: s.env.requests.tail } }

/-- A halted step with no interrupt changes nothing. 47_machine_control.md R372 and 70_reset_and_hazards.md R457
(decision D14): the state after a halted step with no interrupt accepted is the state before it, but for the request of
this step, which has been sampled, and the count returned, which is the open parameter. A finished run stays finished:
no interrupt is accepted at its next step either. -/
def Obligations.HaltedStepsChangeNothing : Prop :=
  ∀ (s : State), live s = true → s.halted = true → interruptedNow s = false →
    ∃ t, step s = .next t ∧
      t = { s with env := { s.env with requests := s.env.requests.tail }, cycles := Config.haltIdleCycles } ∧
      (s.runClass = .finished → t.runClass = .finished ∧ interruptedNow t = false)

/-- Fetching an absent opcode byte faults with its byte and address. 60_exceptions.md R400 and R402 (the spec's
decisions D3 and D9): the record, PC past the opcode byte, nothing else. -/
def Obligations.AbsentOpcodeFaults : Prop :=
  ∀ (s : State), live s = true → interruptedNow s = false → s.halted = false → s.read s.pc ∈ absentBytes →
    step s = .fault (.unrecognizedOpcode (s.read s.pc) s.pc
      { s.sampled with
        fault := some { kind := .unrecognizedOpcode, op := s.read s.pc, pc := s.pc }, pc := s.pc + 1#16 })

/-- A recorded fault is returned again, and no step follows a refusal. 60_exceptions.md R402 and 40_execute.md R151
(decision D9): after a fault the same fault is returned and nothing changes. 40_execute.md R151 and R153 (decision D4):
after a refusal no step follows. The spec does not say what a call after a refusal answers: that it answers
`afterRefusal` is the model's choice (log 7). -/
def Obligations.FaultsAndRefusalsAreSticky : Prop :=
  ∀ (s : State),
    (∀ op pc, s.fault = some { kind := .unrecognizedOpcode, op := op, pc := pc } →
      step s = .fault (.unrecognizedOpcode op pc s)) ∧
    (∀ op pc, s.fault = some { kind := .unhandledOperand, op := op, pc := pc } →
      step s = .fault (.unhandledOperand op pc s)) ∧
    (∀ op pc, s.fault = some { kind := .uninitializedRead, op := op, pc := pc } →
      step s = .fault (.uninitializedRead op pc s)) ∧
    (s.fault = none → s.refusedMark = true → step s = .refused .afterRefusal)

/-- Under ADMIT_GK = doc_only exactly the rows the document does not describe are refused. 40_execute.md R153 (decision
D4); the rows the document describes are `documented`, named from 30_encoding.md R125 and the headers of 43 to 47. Under
ADMIT_GK = all no row is refused. -/
def Obligations.DocOnlyRefusesUndescribedRows : Prop :=
  ∀ (s : State) (i : Instr) (rest : List Byte),
    live s = true → interruptedNow s = false → s.halted = false →
    decode [s.read s.pc, s.read (s.pc + 1#16), s.read (s.pc + 2#16)] = .ok (i, rest) →
    (s.params.admitGk = .docOnly → documented i = false →
      step s = .refused (.docOnly (s.read s.pc) { s.sampled with pc := s.pc + 1#16, refusedMark := true })) ∧
    (s.params.admitGk = .all ∨ documented i = true → ∀ r, step s ≠ .refused r)

/-- Reading a place without a value faults, and writing it gives it one. 60_exceptions.md R405 and 10_state.md R50
(decision D5). A read faults and has no other effect, for an instruction and for an acceptance step; that PC is the
opcode's address plus 1 whatever the length is log 5, and what an acceptance fault leaves is log 19. After a completed
instruction the places without a value are those of before that it has not written. -/
def Obligations.UninitialisedReadsFault : Prop :=
  ∀ (s : State),
    (∀ (i : Instr) (rest : List Byte) (l : Loc), live s = true → interruptedNow s = false → s.halted = false →
      decode [s.read s.pc, s.read (s.pc + 1#16), s.read (s.pc + 2#16)] = .ok (i, rest) →
      (s.params.admitGk = .all ∨ documented i = true) → l ∈ readsOf s i → l ∈ s.unset →
      step s = .fault (.uninitializedRead (s.read s.pc) s.pc
        { s.sampled with
          fault := some { kind := .uninitializedRead, op := s.read s.pc, pc := s.pc }, pc := s.pc + 1#16 })) ∧
    (∀ n : BitVec 3, live s = true → s.request = some n → interruptedNow s = true → Loc.sp ∈ s.unset →
      step s = .fault (.uninitializedRead (0b11#2 ++ n ++ 0b111#3) s.pc
        { s.sampled with fault := some { kind := .uninitializedRead, op := 0b11#2 ++ n ++ 0b111#3, pc := s.pc } })) ∧
    (∀ (i : Instr) (t : State), exec i s = .next t → ∀ l, l ∈ t.unset ↔ l ∈ s.unset ∧ l ∉ writesOf s i)

/-- No step raises UnhandledOperand. 60_exceptions.md R401 (decision D10): no fetched byte raises it. -/
def Obligations.UnhandledOperandIsUnreachable : Prop :=
  ∀ (s : State), s.fault = none → ∀ op pc left, step s ≠ .fault (.unhandledOperand op pc left)

/-- Every well-formed instruction completes from every state. 60_exceptions.md R403 and R404: once decoded no
instruction can fault. The exceptions are the ill-formed terms MOV M,M, LDAX H, LDAX SP, STAX H and STAX SP, which are
no instructions (log 8). EI_SHADOW afterwards is decision D12. -/
def Obligations.WellFormedInstructionsAlwaysComplete : Prop :=
  ∀ (i : Instr) (s : State),
    (i.wellFormed = true → ∃ t, exec i s = .next t ∧ (t.eiShadow = true ↔ i = .ei)) ∧
    (i.wellFormed = false → exec i s = .fault (.unhandledOperand i.opcode s.pc
      { s with fault := some { kind := .unhandledOperand, op := i.opcode, pc := s.pc }, pc := s.pc + 1#16 }))

/-- Only the listed instructions write flags. The table of 10_state.md R37, which the spec derives, over all
instructions. -/
def Obligations.OnlyListedInstructionsWriteFlags : Prop :=
  ∀ (i : Instr) (s t : State), exec i s = .next t →
    (writesResultFlags i = false → t.flag .s = s.flag .s ∧ t.flag .z = s.flag .z ∧ t.flag .p = s.flag .p ∧
      t.flag .ac = s.flag .ac) ∧
    (writesCarry i = false → t.flag .cy = s.flag .cy)

/-- No result depends on a cycle count. 70_reset_and_hazards.md R455: another reported count and another cycle table
give the same step but for the count it reports, whether the step completes, faults or is refused. -/
def Obligations.CycleCountsAreNeverRead : Prop :=
  ∀ (s : State) (n : Nat) (rows : List CycleRow),
    (∀ t, step s = .next t → ∃ k, step (recounted s n rows) = .next (recounted t k rows)) ∧
    (∀ r, step s = .fault r → step (recounted s n rows) = .fault (recountedFault n rows r)) ∧
    (∀ r, step s = .refused r → step (recounted s n rows) = .refused (recountedRefusal n rows r))
end

