-- ==== Sys2Proof/Laws/Decode.lean ====
section
/-! SUPPORT. The decoder on the bytes of an instruction, by the kind of its table row: one lemma per kind of row. -/

namespace Sys2Proof

/-- A row without operand bytes. -/
theorem decode_one {i : Instr} (h : opcodeRow i.opcode = .one i) (hb : i.operandBytes = []) (rest : List Byte) :
    decode (encode i ++ rest) = .ok (i, rest) := by
  simp [encode, decode, h, hb]

/-- A row with one operand byte. -/
theorem decode_byte (mk : Byte → Instr) (d8 : Byte) (h : opcodeRow (mk 0#8).opcode = .byte mk)
    (ho : (mk d8).opcode = (mk 0#8).opcode) (hb : (mk d8).operandBytes = [d8]) (rest : List Byte) :
    decode (encode (mk d8) ++ rest) = .ok (mk d8, rest) := by
  simp [encode, decode, ho, h, hb]

/-- The word of the low and the high byte of a word. -/
@[simp] theorem joinBytes_hi_lo (v : Word) : joinBytes (hiByte v) (loByte v) = v := by
  apply BitVec.eq_of_toNat_eq
  simp only [hiByte, loByte, joinBytes, BitVec.toNat_ofNat]
  omega

/-- A row with a 16-bit operand, low byte first. -/
theorem decode_word (mk : Word → Instr) (v : Word) (h : opcodeRow (mk 0#16).opcode = .word mk)
    (ho : (mk v).opcode = (mk 0#16).opcode) (hb : (mk v).operandBytes = [loByte v, hiByte v]) (rest : List Byte) :
    decode (encode (mk v) ++ rest) = .ok (mk v, rest) := by
  simp [encode, decode, ho, h, hb]

end Sys2Proof
end

