-- ==== Sys2Proof/Laws/State.lean ====
section
/-! SUPPORT. What each basic update leaves in each field of the state: one lemma per field per update, true by unfolding
the update once, so that no later proof unfolds one. -/

namespace Sys2Proof.Machine

variable (s : State)

/-! ### setReg -/

@[simp] theorem setReg_regs (r : Reg) (v : Byte) : (s.setReg r v).regs = s.regs.set r v := rfl
@[simp] theorem setReg_flags (r : Reg) (v : Byte) : (s.setReg r v).flags = s.flags := rfl
@[simp] theorem setReg_pc (r : Reg) (v : Byte) : (s.setReg r v).pc = s.pc := rfl
@[simp] theorem setReg_sp (r : Reg) (v : Byte) : (s.setReg r v).sp = s.sp := rfl
@[simp] theorem setReg_inte (r : Reg) (v : Byte) : (s.setReg r v).inte = s.inte := rfl
@[simp] theorem setReg_eiShadow (r : Reg) (v : Byte) : (s.setReg r v).eiShadow = s.eiShadow := rfl
@[simp] theorem setReg_halted (r : Reg) (v : Byte) : (s.setReg r v).halted = s.halted := rfl
@[simp] theorem setReg_fault (r : Reg) (v : Byte) : (s.setReg r v).fault = s.fault := rfl
@[simp] theorem setReg_refusedMark (r : Reg) (v : Byte) : (s.setReg r v).refusedMark = s.refusedMark := rfl
@[simp] theorem setReg_mem (r : Reg) (v : Byte) : (s.setReg r v).mem = s.mem := rfl
@[simp] theorem setReg_unset (r : Reg) (v : Byte) : (s.setReg r v).unset = Loc.define (.reg r) s.unset := rfl
@[simp] theorem setReg_params (r : Reg) (v : Byte) : (s.setReg r v).params = s.params := rfl
@[simp] theorem setReg_env (r : Reg) (v : Byte) : (s.setReg r v).env = s.env := rfl
@[simp] theorem setReg_events (r : Reg) (v : Byte) : (s.setReg r v).events = s.events := rfl
@[simp] theorem setReg_cycles (r : Reg) (v : Byte) : (s.setReg r v).cycles = s.cycles := rfl

/-! ### setFlag -/

@[simp] theorem setFlag_regs (f : Flag) (b : Bool) : (s.setFlag f b).regs = s.regs := rfl
@[simp] theorem setFlag_flags (f : Flag) (b : Bool) : (s.setFlag f b).flags = s.flags.set f b := rfl
@[simp] theorem setFlag_pc (f : Flag) (b : Bool) : (s.setFlag f b).pc = s.pc := rfl
@[simp] theorem setFlag_sp (f : Flag) (b : Bool) : (s.setFlag f b).sp = s.sp := rfl
@[simp] theorem setFlag_inte (f : Flag) (b : Bool) : (s.setFlag f b).inte = s.inte := rfl
@[simp] theorem setFlag_eiShadow (f : Flag) (b : Bool) : (s.setFlag f b).eiShadow = s.eiShadow := rfl
@[simp] theorem setFlag_halted (f : Flag) (b : Bool) : (s.setFlag f b).halted = s.halted := rfl
@[simp] theorem setFlag_fault (f : Flag) (b : Bool) : (s.setFlag f b).fault = s.fault := rfl
@[simp] theorem setFlag_refusedMark (f : Flag) (b : Bool) : (s.setFlag f b).refusedMark = s.refusedMark := rfl
@[simp] theorem setFlag_mem (f : Flag) (b : Bool) : (s.setFlag f b).mem = s.mem := rfl
@[simp] theorem setFlag_unset (f : Flag) (b : Bool) : (s.setFlag f b).unset = Loc.define (.flag f) s.unset := rfl
@[simp] theorem setFlag_params (f : Flag) (b : Bool) : (s.setFlag f b).params = s.params := rfl
@[simp] theorem setFlag_env (f : Flag) (b : Bool) : (s.setFlag f b).env = s.env := rfl
@[simp] theorem setFlag_events (f : Flag) (b : Bool) : (s.setFlag f b).events = s.events := rfl
@[simp] theorem setFlag_cycles (f : Flag) (b : Bool) : (s.setFlag f b).cycles = s.cycles := rfl

/-! ### setPc -/

@[simp] theorem setPc_regs (v : Word) : (s.setPc v).regs = s.regs := rfl
@[simp] theorem setPc_flags (v : Word) : (s.setPc v).flags = s.flags := rfl
@[simp] theorem setPc_pc (v : Word) : (s.setPc v).pc = v := rfl
@[simp] theorem setPc_sp (v : Word) : (s.setPc v).sp = s.sp := rfl
@[simp] theorem setPc_inte (v : Word) : (s.setPc v).inte = s.inte := rfl
@[simp] theorem setPc_eiShadow (v : Word) : (s.setPc v).eiShadow = s.eiShadow := rfl
@[simp] theorem setPc_halted (v : Word) : (s.setPc v).halted = s.halted := rfl
@[simp] theorem setPc_fault (v : Word) : (s.setPc v).fault = s.fault := rfl
@[simp] theorem setPc_refusedMark (v : Word) : (s.setPc v).refusedMark = s.refusedMark := rfl
@[simp] theorem setPc_mem (v : Word) : (s.setPc v).mem = s.mem := rfl
@[simp] theorem setPc_unset (v : Word) : (s.setPc v).unset = s.unset := rfl
@[simp] theorem setPc_params (v : Word) : (s.setPc v).params = s.params := rfl
@[simp] theorem setPc_env (v : Word) : (s.setPc v).env = s.env := rfl
@[simp] theorem setPc_events (v : Word) : (s.setPc v).events = s.events := rfl
@[simp] theorem setPc_cycles (v : Word) : (s.setPc v).cycles = s.cycles := rfl

/-! ### setSp -/

@[simp] theorem setSp_regs (v : Word) : (s.setSp v).regs = s.regs := rfl
@[simp] theorem setSp_flags (v : Word) : (s.setSp v).flags = s.flags := rfl
@[simp] theorem setSp_pc (v : Word) : (s.setSp v).pc = s.pc := rfl
@[simp] theorem setSp_sp (v : Word) : (s.setSp v).sp = v := rfl
@[simp] theorem setSp_inte (v : Word) : (s.setSp v).inte = s.inte := rfl
@[simp] theorem setSp_eiShadow (v : Word) : (s.setSp v).eiShadow = s.eiShadow := rfl
@[simp] theorem setSp_halted (v : Word) : (s.setSp v).halted = s.halted := rfl
@[simp] theorem setSp_fault (v : Word) : (s.setSp v).fault = s.fault := rfl
@[simp] theorem setSp_refusedMark (v : Word) : (s.setSp v).refusedMark = s.refusedMark := rfl
@[simp] theorem setSp_mem (v : Word) : (s.setSp v).mem = s.mem := rfl
@[simp] theorem setSp_unset (v : Word) : (s.setSp v).unset = Loc.define .sp s.unset := rfl
@[simp] theorem setSp_params (v : Word) : (s.setSp v).params = s.params := rfl
@[simp] theorem setSp_env (v : Word) : (s.setSp v).env = s.env := rfl
@[simp] theorem setSp_events (v : Word) : (s.setSp v).events = s.events := rfl
@[simp] theorem setSp_cycles (v : Word) : (s.setSp v).cycles = s.cycles := rfl

/-! ### write -/

@[simp] theorem write_regs (a : Word) (v : Byte) : (s.write a v).regs = s.regs := rfl
@[simp] theorem write_flags (a : Word) (v : Byte) : (s.write a v).flags = s.flags := rfl
@[simp] theorem write_pc (a : Word) (v : Byte) : (s.write a v).pc = s.pc := rfl
@[simp] theorem write_sp (a : Word) (v : Byte) : (s.write a v).sp = s.sp := rfl
@[simp] theorem write_inte (a : Word) (v : Byte) : (s.write a v).inte = s.inte := rfl
@[simp] theorem write_eiShadow (a : Word) (v : Byte) : (s.write a v).eiShadow = s.eiShadow := rfl
@[simp] theorem write_halted (a : Word) (v : Byte) : (s.write a v).halted = s.halted := rfl
@[simp] theorem write_fault (a : Word) (v : Byte) : (s.write a v).fault = s.fault := rfl
@[simp] theorem write_refusedMark (a : Word) (v : Byte) : (s.write a v).refusedMark = s.refusedMark := rfl
@[simp] theorem write_mem (a : Word) (v : Byte) : (s.write a v).mem = s.mem.write a v := rfl
@[simp] theorem write_unset (a : Word) (v : Byte) : (s.write a v).unset = s.unset := rfl
@[simp] theorem write_params (a : Word) (v : Byte) : (s.write a v).params = s.params := rfl
@[simp] theorem write_env (a : Word) (v : Byte) : (s.write a v).env = s.env := rfl
@[simp] theorem write_events (a : Word) (v : Byte) : (s.write a v).events = s.events := rfl
@[simp] theorem write_cycles (a : Word) (v : Byte) : (s.write a v).cycles = s.cycles := rfl

/-! ### fetched -/

@[simp] theorem fetched_regs (n : Nat) : (s.fetched n).regs = s.regs := rfl
@[simp] theorem fetched_flags (n : Nat) : (s.fetched n).flags = s.flags := rfl
@[simp] theorem fetched_pc (n : Nat) : (s.fetched n).pc = s.pc + BitVec.ofNat 16 n := rfl
@[simp] theorem fetched_sp (n : Nat) : (s.fetched n).sp = s.sp := rfl
@[simp] theorem fetched_inte (n : Nat) : (s.fetched n).inte = s.inte := rfl
@[simp] theorem fetched_eiShadow (n : Nat) : (s.fetched n).eiShadow = false := rfl
@[simp] theorem fetched_halted (n : Nat) : (s.fetched n).halted = s.halted := rfl
@[simp] theorem fetched_fault (n : Nat) : (s.fetched n).fault = s.fault := rfl
@[simp] theorem fetched_refusedMark (n : Nat) : (s.fetched n).refusedMark = s.refusedMark := rfl
@[simp] theorem fetched_mem (n : Nat) : (s.fetched n).mem = s.mem := rfl
@[simp] theorem fetched_unset (n : Nat) : (s.fetched n).unset = s.unset := rfl
@[simp] theorem fetched_params (n : Nat) : (s.fetched n).params = s.params := rfl
@[simp] theorem fetched_env (n : Nat) : (s.fetched n).env = s.env := rfl
@[simp] theorem fetched_events (n : Nat) : (s.fetched n).events = s.events := rfl
@[simp] theorem fetched_cycles (n : Nat) : (s.fetched n).cycles = s.cycles := rfl

/-! ### report -/

@[simp] theorem report_regs (n : Nat) : (s.report n).regs = s.regs := rfl
@[simp] theorem report_flags (n : Nat) : (s.report n).flags = s.flags := rfl
@[simp] theorem report_pc (n : Nat) : (s.report n).pc = s.pc := rfl
@[simp] theorem report_sp (n : Nat) : (s.report n).sp = s.sp := rfl
@[simp] theorem report_inte (n : Nat) : (s.report n).inte = s.inte := rfl
@[simp] theorem report_eiShadow (n : Nat) : (s.report n).eiShadow = s.eiShadow := rfl
@[simp] theorem report_halted (n : Nat) : (s.report n).halted = s.halted := rfl
@[simp] theorem report_fault (n : Nat) : (s.report n).fault = s.fault := rfl
@[simp] theorem report_refusedMark (n : Nat) : (s.report n).refusedMark = s.refusedMark := rfl
@[simp] theorem report_mem (n : Nat) : (s.report n).mem = s.mem := rfl
@[simp] theorem report_unset (n : Nat) : (s.report n).unset = s.unset := rfl
@[simp] theorem report_params (n : Nat) : (s.report n).params = s.params := rfl
@[simp] theorem report_env (n : Nat) : (s.report n).env = s.env := rfl
@[simp] theorem report_events (n : Nat) : (s.report n).events = s.events := rfl
@[simp] theorem report_cycles (n : Nat) : (s.report n).cycles = n := rfl

/-! ### ioOut -/

@[simp] theorem ioOut_regs (p v : Byte) : (s.ioOut p v).regs = s.regs := rfl
@[simp] theorem ioOut_flags (p v : Byte) : (s.ioOut p v).flags = s.flags := rfl
@[simp] theorem ioOut_pc (p v : Byte) : (s.ioOut p v).pc = s.pc := rfl
@[simp] theorem ioOut_sp (p v : Byte) : (s.ioOut p v).sp = s.sp := rfl
@[simp] theorem ioOut_inte (p v : Byte) : (s.ioOut p v).inte = s.inte := rfl
@[simp] theorem ioOut_eiShadow (p v : Byte) : (s.ioOut p v).eiShadow = s.eiShadow := rfl
@[simp] theorem ioOut_halted (p v : Byte) : (s.ioOut p v).halted = s.halted := rfl
@[simp] theorem ioOut_fault (p v : Byte) : (s.ioOut p v).fault = s.fault := rfl
@[simp] theorem ioOut_refusedMark (p v : Byte) : (s.ioOut p v).refusedMark = s.refusedMark := rfl
@[simp] theorem ioOut_mem (p v : Byte) : (s.ioOut p v).mem = s.mem := rfl
@[simp] theorem ioOut_unset (p v : Byte) : (s.ioOut p v).unset = s.unset := rfl
@[simp] theorem ioOut_params (p v : Byte) : (s.ioOut p v).params = s.params := rfl
@[simp] theorem ioOut_env (p v : Byte) : (s.ioOut p v).env = s.env := rfl
@[simp] theorem ioOut_events (p v : Byte) : (s.ioOut p v).events = s.events ++ [.out p v] := rfl
@[simp] theorem ioOut_cycles (p v : Byte) : (s.ioOut p v).cycles = s.cycles := rfl

/-! ### ioIn -/

@[simp] theorem ioIn_regs (p : Byte) : (s.ioIn p).regs = s.regs := rfl
@[simp] theorem ioIn_flags (p : Byte) : (s.ioIn p).flags = s.flags := rfl
@[simp] theorem ioIn_pc (p : Byte) : (s.ioIn p).pc = s.pc := rfl
@[simp] theorem ioIn_sp (p : Byte) : (s.ioIn p).sp = s.sp := rfl
@[simp] theorem ioIn_inte (p : Byte) : (s.ioIn p).inte = s.inte := rfl
@[simp] theorem ioIn_eiShadow (p : Byte) : (s.ioIn p).eiShadow = s.eiShadow := rfl
@[simp] theorem ioIn_halted (p : Byte) : (s.ioIn p).halted = s.halted := rfl
@[simp] theorem ioIn_fault (p : Byte) : (s.ioIn p).fault = s.fault := rfl
@[simp] theorem ioIn_refusedMark (p : Byte) : (s.ioIn p).refusedMark = s.refusedMark := rfl
@[simp] theorem ioIn_mem (p : Byte) : (s.ioIn p).mem = s.mem := rfl
@[simp] theorem ioIn_unset (p : Byte) : (s.ioIn p).unset = s.unset := rfl
@[simp] theorem ioIn_params (p : Byte) : (s.ioIn p).params = s.params := rfl
@[simp] theorem ioIn_env (p : Byte) : (s.ioIn p).env = { s.env with inputs := s.env.inputs.tail, draws := s.env.draws + 1 } := rfl
@[simp] theorem ioIn_events (p : Byte) : (s.ioIn p).events = s.events ++ [.inp p s.ioAnswer] := rfl
@[simp] theorem ioIn_cycles (p : Byte) : (s.ioIn p).cycles = s.cycles := rfl

/-! ### sampled -/

@[simp] theorem sampled_regs : (s.sampled).regs = s.regs := rfl
@[simp] theorem sampled_flags : (s.sampled).flags = s.flags := rfl
@[simp] theorem sampled_pc : (s.sampled).pc = s.pc := rfl
@[simp] theorem sampled_sp : (s.sampled).sp = s.sp := rfl
@[simp] theorem sampled_inte : (s.sampled).inte = s.inte := rfl
@[simp] theorem sampled_eiShadow : (s.sampled).eiShadow = s.eiShadow := rfl
@[simp] theorem sampled_halted : (s.sampled).halted = s.halted := rfl
@[simp] theorem sampled_fault : (s.sampled).fault = s.fault := rfl
@[simp] theorem sampled_refusedMark : (s.sampled).refusedMark = s.refusedMark := rfl
@[simp] theorem sampled_mem : (s.sampled).mem = s.mem := rfl
@[simp] theorem sampled_unset : (s.sampled).unset = s.unset := rfl
@[simp] theorem sampled_params : (s.sampled).params = s.params := rfl
@[simp] theorem sampled_env : (s.sampled).env = { s.env with requests := s.env.requests.tail } := rfl
@[simp] theorem sampled_events : (s.sampled).events = s.events := rfl
@[simp] theorem sampled_cycles : (s.sampled).cycles = s.cycles := rfl

/-! ### The accessors read one field -/

theorem reg_eq (r : Reg) : s.reg r = s.regs.get r := rfl
theorem flag_eq (f : Flag) : s.flag f = s.flags.get f := rfl
theorem read_eq (a : Word) : s.read a = s.mem.read a := rfl

@[simp] theorem Regs.get_set (g : Regs) (r k : Reg) (v : Byte) :
    (g.set r v).get k = if k = r then v else g.get k := by
  cases r <;> cases k <;> rfl

@[simp] theorem Flags.get_set (g : Flags) (f k : Flag) (b : Bool) :
    (g.set f b).get k = if k = f then b else g.get k := by
  cases f <;> cases k <;> rfl

/-- A place has a mark after `define` exactly when it had one and is not the place defined. -/
@[simp] theorem mem_define (k l : Loc) (u : List Loc) : k ∈ Loc.define l u ↔ k ∈ u ∧ k ≠ l := by
  simp [Loc.define]

@[simp] theorem define_nil (l : Loc) : Loc.define l [] = [] := rfl

@[simp] theorem setReg_reg (r : Reg) (v : Byte) (k : Reg) :
    (s.setReg r v).reg k = if k = r then v else s.reg k := Regs.get_set s.regs r k v
@[simp] theorem setReg_flag (r : Reg) (v : Byte) (k : Flag) : (s.setReg r v).flag k = s.flag k := rfl
@[simp] theorem setReg_read (r : Reg) (v : Byte) (k : Word) : (s.setReg r v).read k = s.read k := rfl
@[simp] theorem setReg_ioAnswer (r : Reg) (v : Byte) : (s.setReg r v).ioAnswer = s.ioAnswer := rfl
@[simp] theorem setFlag_reg (f : Flag) (b : Bool) (k : Reg) : (s.setFlag f b).reg k = s.reg k := rfl
@[simp] theorem setFlag_flag (f : Flag) (b : Bool) (k : Flag) :
    (s.setFlag f b).flag k = if k = f then b else s.flag k := Flags.get_set s.flags f k b
@[simp] theorem setFlag_read (f : Flag) (b : Bool) (k : Word) : (s.setFlag f b).read k = s.read k := rfl
@[simp] theorem setFlag_ioAnswer (f : Flag) (b : Bool) : (s.setFlag f b).ioAnswer = s.ioAnswer := rfl
@[simp] theorem setPc_reg (v : Word) (k : Reg) : (s.setPc v).reg k = s.reg k := rfl
@[simp] theorem setPc_flag (v : Word) (k : Flag) : (s.setPc v).flag k = s.flag k := rfl
@[simp] theorem setPc_read (v : Word) (k : Word) : (s.setPc v).read k = s.read k := rfl
@[simp] theorem setPc_ioAnswer (v : Word) : (s.setPc v).ioAnswer = s.ioAnswer := rfl
@[simp] theorem setSp_reg (v : Word) (k : Reg) : (s.setSp v).reg k = s.reg k := rfl
@[simp] theorem setSp_flag (v : Word) (k : Flag) : (s.setSp v).flag k = s.flag k := rfl
@[simp] theorem setSp_read (v : Word) (k : Word) : (s.setSp v).read k = s.read k := rfl
@[simp] theorem setSp_ioAnswer (v : Word) : (s.setSp v).ioAnswer = s.ioAnswer := rfl
@[simp] theorem write_reg (a : Word) (v : Byte) (k : Reg) : (s.write a v).reg k = s.reg k := rfl
@[simp] theorem write_flag (a : Word) (v : Byte) (k : Flag) : (s.write a v).flag k = s.flag k := rfl
@[simp] theorem write_ioAnswer (a : Word) (v : Byte) : (s.write a v).ioAnswer = s.ioAnswer := rfl
@[simp] theorem fetched_reg (n : Nat) (k : Reg) : (s.fetched n).reg k = s.reg k := rfl
@[simp] theorem fetched_flag (n : Nat) (k : Flag) : (s.fetched n).flag k = s.flag k := rfl
@[simp] theorem fetched_read (n : Nat) (k : Word) : (s.fetched n).read k = s.read k := rfl
@[simp] theorem fetched_ioAnswer (n : Nat) : (s.fetched n).ioAnswer = s.ioAnswer := rfl
@[simp] theorem report_reg (n : Nat) (k : Reg) : (s.report n).reg k = s.reg k := rfl
@[simp] theorem report_flag (n : Nat) (k : Flag) : (s.report n).flag k = s.flag k := rfl
@[simp] theorem report_read (n : Nat) (k : Word) : (s.report n).read k = s.read k := rfl
@[simp] theorem report_ioAnswer (n : Nat) : (s.report n).ioAnswer = s.ioAnswer := rfl
@[simp] theorem ioOut_reg (p v : Byte) (k : Reg) : (s.ioOut p v).reg k = s.reg k := rfl
@[simp] theorem ioOut_flag (p v : Byte) (k : Flag) : (s.ioOut p v).flag k = s.flag k := rfl
@[simp] theorem ioOut_read (p v : Byte) (k : Word) : (s.ioOut p v).read k = s.read k := rfl
@[simp] theorem ioOut_ioAnswer (p v : Byte) : (s.ioOut p v).ioAnswer = s.ioAnswer := rfl
@[simp] theorem ioIn_reg (p : Byte) (k : Reg) : (s.ioIn p).reg k = s.reg k := rfl
@[simp] theorem ioIn_flag (p : Byte) (k : Flag) : (s.ioIn p).flag k = s.flag k := rfl
@[simp] theorem ioIn_read (p : Byte) (k : Word) : (s.ioIn p).read k = s.read k := rfl
@[simp] theorem sampled_reg (k : Reg) : (s.sampled).reg k = s.reg k := rfl
@[simp] theorem sampled_flag (k : Flag) : (s.sampled).flag k = s.flag k := rfl
@[simp] theorem sampled_read (k : Word) : (s.sampled).read k = s.read k := rfl
@[simp] theorem sampled_ioAnswer : (s.sampled).ioAnswer = s.ioAnswer := rfl

end Sys2Proof.Machine
end

