-- ==== Sys2Proof/Laws/Memory.lean ====
section
/-! SUPPORT. The laws of memory: a read after a write (20_memory.md R71, R73), and that every memory operation keeps the
canonical form. -/

namespace Sys2Proof.Machine

/-! ### Read after write -/

theorem get_erase_self (m : Memory) (a : Nat) : Memory.get (Memory.erase m a) a = Memory.blank := by
  induction m with
  | nil => rfl
  | cons c m ih =>
    obtain ⟨k, v⟩ := c
    by_cases h : k = a <;> simp [Memory.erase, Memory.get, h, ih]

theorem get_erase_of_ne (m : Memory) {a b : Nat} (hne : b ≠ a) :
    Memory.get (Memory.erase m a) b = Memory.get m b := by
  induction m with
  | nil => rfl
  | cons c m ih =>
    obtain ⟨k, v⟩ := c
    by_cases h : k = a
    · subst h
      simp [Memory.erase, Memory.get, ih, Ne.symm hne]
    · simp [Memory.erase, Memory.get, h, ih]

theorem get_insert_of_ne (m : Memory) {a b : Nat} (v : Byte) (hne : b ≠ a) :
    Memory.get (Memory.insert m a v) b = Memory.get m b := by
  induction m with
  | nil => simp [Memory.insert, Memory.get, Ne.symm hne]
  | cons c m ih =>
    obtain ⟨k, w⟩ := c
    by_cases h : a < k
    · simp [Memory.insert, Memory.get, h, Ne.symm hne]
    · simp [Memory.insert, Memory.get, h, ih]

theorem get_insert_erase (m : Memory) (a : Nat) (v : Byte) :
    Memory.get (Memory.insert (Memory.erase m a) a v) a = v := by
  induction m with
  | nil => simp [Memory.erase, Memory.insert, Memory.get]
  | cons c m ih =>
    obtain ⟨k, w⟩ := c
    by_cases h : k = a
    · simpa [Memory.erase, h] using ih
    · by_cases h2 : a < k
      · simp [Memory.erase, h, Memory.insert, h2, Memory.get]
      · simp [Memory.erase, h, Memory.insert, h2, Memory.get, ih]

/-- The byte at one address after a byte has been stored at one: all that a store does. -/
theorem get_put (m : Memory) (a b : Nat) (v : Byte) :
    Memory.get (Memory.put m a v) b = if b = a then v else Memory.get m b := by
  unfold Memory.put
  by_cases hv : v = Memory.blank <;> by_cases hb : b = a
  · subst hb; simp [hv, get_erase_self]
  · simp [hv, hb, get_erase_of_ne m hb]
  · subst hb; simp [hv, get_insert_erase]
  · simp [hv, hb, get_insert_of_ne _ v hb, get_erase_of_ne m hb]

@[simp] theorem read_write (m : Memory) (a b : Word) (v : Byte) :
    (m.write a v).read b = if b = a then v else m.read b := by
  simp [Memory.read, Memory.write, get_put, BitVec.toNat_inj]

@[simp] theorem write_read (s : State) (a b : Word) (v : Byte) :
    (s.write a v).read b = if b = a then v else s.read b :=
  read_write s.mem a b v

/-! ### The canonical form -/

theorem wfFrom_cons (lo k : Nat) (v : Byte) (m : Memory) :
    Memory.wfFrom lo ((k, v) :: m) = true ↔
      lo ≤ k ∧ k < 65536 ∧ v ≠ Memory.blank ∧ Memory.wfFrom (k + 1) m = true := by
  simp only [Memory.wfFrom, Bool.and_eq_true, decide_eq_true_eq, and_assoc]

theorem wfFrom_mono (m : Memory) {lo hi : Nat} (hle : lo ≤ hi) (h : Memory.wfFrom hi m = true) :
    Memory.wfFrom lo m = true := by
  cases m with
  | nil => rfl
  | cons c m =>
    obtain ⟨k, v⟩ := c
    rw [wfFrom_cons] at h ⊢
    exact ⟨by omega, h.2⟩

theorem erase_wfFrom (m : Memory) (a lo : Nat) (h : Memory.wfFrom lo m = true) :
    Memory.wfFrom lo (Memory.erase m a) = true := by
  induction m generalizing lo with
  | nil => rfl
  | cons c m ih =>
    obtain ⟨k, v⟩ := c
    rw [wfFrom_cons] at h
    by_cases hka : k = a
    · simp only [Memory.erase, hka, if_true]
      exact wfFrom_mono _ (by omega : lo ≤ k + 1) (ih _ h.2.2.2)
    · simp only [Memory.erase, hka, if_false, wfFrom_cons]
      exact ⟨h.1, h.2.1, h.2.2.1, ih _ h.2.2.2⟩

/-- Nothing is listed at `a`. -/
def Unlisted (a : Nat) (m : Memory) : Prop := ∀ c ∈ m, c.1 ≠ a

theorem erase_unlisted (m : Memory) (a : Nat) : Unlisted a (Memory.erase m a) := by
  induction m with
  | nil => intro c hc; cases hc
  | cons c m ih =>
    obtain ⟨k, v⟩ := c
    by_cases h : k = a
    · simpa [Memory.erase, h] using ih
    · intro c hc
      simp only [Memory.erase, h, if_false, List.mem_cons] at hc
      rcases hc with rfl | hc
      · exact h
      · exact ih c hc

theorem insert_wfFrom (m : Memory) (a lo : Nat) (v : Byte) (h : Memory.wfFrom lo m = true)
    (hun : Unlisted a m) (hlo : lo ≤ a) (ha : a < 65536) (hv : v ≠ Memory.blank) :
    Memory.wfFrom lo (Memory.insert m a v) = true := by
  induction m generalizing lo with
  | nil =>
    rw [Memory.insert, wfFrom_cons]
    exact ⟨hlo, ha, hv, rfl⟩
  | cons c m ih =>
    obtain ⟨k, w⟩ := c
    have hne : k ≠ a := hun (k, w) (by simp)
    rw [wfFrom_cons] at h
    by_cases hak : a < k
    · simp only [Memory.insert, hak, if_true, wfFrom_cons]
      exact ⟨hlo, ha, hv, by omega, h.2⟩
    · simp only [Memory.insert, hak, if_false, wfFrom_cons]
      exact ⟨h.1, h.2.1, h.2.2.1,
        ih (k + 1) h.2.2.2 (fun c hc => hun c (by simp [hc])) (by omega)⟩

/-- Storing a byte inside the address space keeps the canonical form. -/
theorem put_wf (m : Memory) (a : Nat) (v : Byte) (h : m.wf = true) (ha : a < 65536) :
    (Memory.put m a v).wf = true := by
  unfold Memory.put Memory.wf
  split
  · exact erase_wfFrom m a 0 h
  next hv => exact insert_wfFrom _ a 0 v (erase_wfFrom m a 0 h) (erase_unlisted m a) (by omega) ha hv

/-- `MemWrite` keeps the canonical form. -/
@[simp] theorem write_wf (m : Memory) (a : Word) (v : Byte) (h : m.wf = true) : (m.write a v).wf = true :=
  put_wf m a.toNat v h a.isLt

/-- The memory after reset is in canonical form. -/
theorem reset_mem_wf : State.reset.mem.wf = true := rfl

/-- Below the first address that can be listed, nothing is listed. -/
theorem get_below (m : Memory) {a lo : Nat} (h : Memory.wfFrom lo m = true) (hlt : a < lo) :
    Memory.get m a = Memory.blank := by
  induction m generalizing lo with
  | nil => rfl
  | cons c m ih =>
    obtain ⟨k, v⟩ := c
    rw [wfFrom_cons] at h
    have hne : k ≠ a := by omega
    simp only [Memory.get, hne, if_false]
    exact ih h.2.2.2 (by omega)

theorem eq_of_get_eq (m n : Memory) (lo : Nat) (hm : Memory.wfFrom lo m = true) (hn : Memory.wfFrom lo n = true)
    (h : ∀ a, Memory.get m a = Memory.get n a) : m = n := by
  induction m generalizing n lo with
  | nil =>
    cases n with
    | nil => rfl
    | cons c n =>
      obtain ⟨k, v⟩ := c
      rw [wfFrom_cons] at hn
      exact absurd (by simpa [Memory.get] using (h k).symm) hn.2.2.1
  | cons c m ih =>
    obtain ⟨k, v⟩ := c
    rw [wfFrom_cons] at hm
    cases n with
    | nil => exact absurd (by simpa [Memory.get] using h k) hm.2.2.1
    | cons d n =>
      obtain ⟨j, w⟩ := d
      rw [wfFrom_cons] at hn
      have hkj : k = j := by
        rcases Nat.lt_trichotomy k j with hlt | heq | hlt
        · have hb := get_below n (a := k) hn.2.2.2 (by omega)
          have hk := h k
          simp only [Memory.get, Nat.ne_of_gt hlt, if_true, if_false, hb] at hk
          exact absurd hk hm.2.2.1
        · exact heq
        · have hb := get_below m (a := j) hm.2.2.2 (by omega)
          have hj := h j
          simp only [Memory.get, Nat.ne_of_gt hlt, if_true, if_false, hb] at hj
          exact absurd hj.symm hn.2.2.1
      subst hkj
      have hv : v = w := by simpa [Memory.get] using h k
      subst hv
      have htail : m = n := by
        refine ih n (k + 1) hm.2.2.2 hn.2.2.2 fun a => ?_
        by_cases ha : k = a
        · rw [get_below m hm.2.2.2 (by omega), get_below n hn.2.2.2 (by omega)]
        · simpa [Memory.get, ha] using h a
      rw [htail]

/-- Two memories in canonical form that hold the same byte at every address are equal as data. -/
theorem eq_of_wf (m n : Memory) (hm : m.wf = true) (hn : n.wf = true) (h : ∀ a, Memory.get m a = Memory.get n a) :
    m = n :=
  eq_of_get_eq m n 0 hm hn h

/-- The loader keeps the canonical form. -/
theorem load_wf (bytes : List Byte) (s : State) (addr : Word) (h : s.mem.wf = true) :
    (s.load addr bytes).mem.wf = true := by
  induction bytes generalizing s addr with
  | nil => exact h
  | cons b bs ih => exact ih _ _ (write_wf s.mem addr b h)

end Sys2Proof.Machine
end

