-- ==== Sys2Proof/Laws/Ops.lean ====
section
/-! SUPPORT. What each shared operation can do, once: the values it writes, and `Touches`, all that it leaves unchanged.
A proof about an instruction cites these instead of unfolding the operation. -/

namespace Sys2Proof.Machine

/-- From `s` to `t` exactly the registers, flags and SP of `writes` were given a value and only the bytes at `stores`
were stored to; PC, the control state, the interfaces and the reported cycles are unchanged. -/
structure Touches (writes : List Loc) (stores : List Word) (s t : State) : Prop where
  keeps : Keeps writes stores s t
  control : KeepsControl s t
  io : KeepsIo s t
  pc : t.pc = s.pc
  eiShadow : t.eiShadow = s.eiShadow
  cycles : t.cycles = s.cycles
  marks : ∀ l, l ∈ t.unset ↔ l ∈ s.unset ∧ l ∉ writes
  memWf : s.mem.wf = true → t.mem.wf = true

/-- One operation after another touches what either touches. -/
theorem Touches.trans {w x : List Loc} {m n : List Word} {s t u : State} (h : Touches w m s t)
    (k : Touches x n t u) : Touches (w ++ x) (m ++ n) s u where
  keeps :=
    { regs := fun r hr => by
        simp only [List.mem_append, not_or] at hr
        rw [k.keeps.regs r hr.2, h.keeps.regs r hr.1]
      flags := fun f hf => by
        simp only [List.mem_append, not_or] at hf
        rw [k.keeps.flags f hf.2, h.keeps.flags f hf.1]
      sp := fun hs => by
        simp only [List.mem_append, not_or] at hs
        rw [k.keeps.sp hs.2, h.keeps.sp hs.1]
      bytes := fun a ha => by
        simp only [List.mem_append, not_or] at ha
        rw [k.keeps.bytes a ha.2, h.keeps.bytes a ha.1] }
  control :=
    { inte := k.control.inte.trans h.control.inte
      halted := k.control.halted.trans h.control.halted
      fault := k.control.fault.trans h.control.fault
      refusedMark := k.control.refusedMark.trans h.control.refusedMark
      params := k.control.params.trans h.control.params }
  io :=
    { env := k.io.env.trans h.io.env
      events := k.io.events.trans h.io.events }
  pc := k.pc.trans h.pc
  eiShadow := k.eiShadow.trans h.eiShadow
  cycles := k.cycles.trans h.cycles
  marks := fun l => by rw [k.marks l, h.marks l, List.mem_append, not_or, and_assoc]
  memWf := fun hw => k.memWf (h.memWf hw)

/-- The order and the repetition of what is touched do not matter. -/
theorem Touches.congr {w x : List Loc} {m n : List Word} {s t : State} (h : Touches w m s t)
    (hw : ∀ l, l ∈ w ↔ l ∈ x) (hm : ∀ a, a ∈ m → a ∈ n) : Touches x n s t where
  keeps :=
    { regs := fun r hr => h.keeps.regs r (by rwa [hw])
      flags := fun f hf => h.keeps.flags f (by rwa [hw])
      sp := fun hs => h.keeps.sp (by rwa [hw])
      bytes := fun a ha => h.keeps.bytes a fun hc => ha (hm a hc) }
  control := h.control
  io := h.io
  pc := h.pc
  eiShadow := h.eiShadow
  cycles := h.cycles
  marks := fun l => by rw [h.marks l, hw l]
  memWf := h.memWf

/-- A completed instruction changes, besides PC, EI_SHADOW and the reported cycles, what its effect touches. -/
theorem Touches.completed {w : List Loc} {m : List Word} {s t : State} {n : Nat} (h : Touches w m (s.fetched n) t)
    (cycles : Nat) : Keeps w m s (t.report cycles) ∧ KeepsControl s (t.report cycles) ∧ KeepsIo s (t.report cycles) where
  left :=
    { regs := fun r hr => h.keeps.regs r hr
      flags := fun f hf => h.keeps.flags f hf
      sp := fun hs => h.keeps.sp hs
      bytes := fun a ha => h.keeps.bytes a ha }
  right :=
    ⟨{ inte := h.control.inte
       halted := h.control.halted
       fault := h.control.fault
       refusedMark := h.control.refusedMark
       params := h.control.params },
     { env := h.io.env
       events := h.io.events }⟩

/-! ### The basic operations -/

theorem Touches.refl (s : State) : Touches [] [] s s := by
  constructor <;> (try constructor) <;> simp

theorem setReg_touches (s : State) (r : Reg) (v : Byte) : Touches [.reg r] [] s (s.setReg r v) := by
  constructor <;> (try constructor) <;> simp +contextual

theorem setFlag_touches (s : State) (f : Flag) (b : Bool) : Touches [.flag f] [] s (s.setFlag f b) := by
  constructor <;> (try constructor) <;> simp +contextual

theorem setSp_touches (s : State) (v : Word) : Touches [.sp] [] s (s.setSp v) := by
  constructor <;> (try constructor) <;> simp +contextual

theorem write_touches (s : State) (a : Word) (v : Byte) : Touches [] [a] s (s.write a v) := by
  constructor <;> (try constructor) <;> simp +contextual

/-! ### Words, pairs, memory words -/

@[simp] theorem hiByte_joinBytes (hi lo : Byte) : hiByte (joinBytes hi lo) = hi := by
  apply BitVec.eq_of_toNat_eq
  simp only [hiByte, joinBytes, BitVec.toNat_ofNat]
  omega

@[simp] theorem loByte_joinBytes (hi lo : Byte) : loByte (joinBytes hi lo) = lo := by
  apply BitVec.eq_of_toNat_eq
  simp only [loByte, joinBytes, BitVec.toNat_ofNat]
  omega

/-- An address and its successor differ. -/
@[simp] theorem succ_ne_self (a : Word) : a + 1#16 ≠ a := by
  intro h
  bv_omega

@[simp] theorem self_ne_succ (a : Word) : a ≠ a + 1#16 := fun h => succ_ne_self a h.symm

theorem pred_pred (a : Word) : a - 1#16 - 1#16 = a - 2#16 := by bv_omega

/-- The places a pair names. -/
def pairLocs : RegPair → List Loc
  | .bc => [.reg .b, .reg .c]
  | .de => [.reg .d, .reg .e]
  | .hl => [.reg .h, .reg .l]
  | .sp => [.sp]

@[simp] theorem setPair_pair (s : State) (p : RegPair) (v : Word) : (s.setPair p v).pair p = v := by
  cases p <;> simp [State.setPair, State.pair]

theorem setPair_touches (s : State) (p : RegPair) (v : Word) : Touches (pairLocs p) [] s (s.setPair p v) := by
  cases p
  · exact (setReg_touches s .b _).trans (setReg_touches _ .c _)
  · exact (setReg_touches s .d _).trans (setReg_touches _ .e _)
  · exact (setReg_touches s .h _).trans (setReg_touches _ .l _)
  · exact setSp_touches s v

@[simp] theorem writeWord_readWord (s : State) (a v : Word) : (s.writeWord a v).readWord a = v := by
  simp [State.writeWord, State.readWord]

theorem writeWord_touches (s : State) (a v : Word) : Touches [] [a, a + 1#16] s (s.writeWord a v) :=
  (write_touches s a _).trans (write_touches _ (a + 1#16) _)

/-- The places an operand names. -/
def operandLocs : Operand → List Loc
  | .reg r => [.reg r]
  | .m => []

/-- The addresses a store to an operand stores to. -/
def operandStores (s : State) : Operand → List Word
  | .reg _ => []
  | .m => [s.pair .hl]

theorem setDst_touches (s : State) (d : Operand) (v : Byte) :
    Touches (operandLocs d) (operandStores s d) s (s.setDst d v) := by
  cases d with
  | reg r => exact setReg_touches s r v
  | m => exact write_touches s (s.pair .hl) v

/-! ### The stack -/

/-- `Push16`: SP goes down by 2, the low byte lies at the new SP, the high byte above it (20_memory.md R80). -/
theorem push16_touches (s : State) (v : Word) : Touches [.sp] [s.sp - 1#16, s.sp - 2#16] s (s.push16 v) := by
  have h := ((setSp_touches s (s.sp - 1#16)).trans (write_touches _ (s.sp - 1#16) (hiByte v))).trans
    ((setSp_touches _ (s.sp - 1#16 - 1#16)).trans (write_touches _ (s.sp - 1#16 - 1#16) (loByte v)))
  refine Touches.congr h (by simp) (by simp [pred_pred])

@[simp] theorem push16_sp (s : State) (v : Word) : (s.push16 v).sp = s.sp - 2#16 := by
  simp [State.push16, State.push8, pred_pred]

@[simp] theorem push16_readWord (s : State) (v : Word) : (s.push16 v).readWord (s.sp - 2#16) = v := by
  have h : s.sp - 2#16 + 1#16 = s.sp - 1#16 := by bv_omega
  have hne : s.sp - 1#16 ≠ s.sp - 2#16 := by bv_omega
  simp [State.readWord, State.push16, State.push8, pred_pred, h, hne]

/-- `Pop16` after `Push16` returns the word and restores SP (20_memory.md R81, 45_stack.md R304). -/
theorem push16_pop16 (s : State) (v : Word) :
    (s.push16 v).top16 = v ∧ (s.push16 v).drop16.sp = s.sp := by
  refine ⟨by simp [State.top16], ?_⟩
  have h : s.sp - 2#16 + 2#16 = s.sp := by bv_omega
  simp [State.drop16, h]

theorem drop16_touches (s : State) : Touches [.sp] [] s s.drop16 := setSp_touches s _

/-! ### Flags and results -/

theorem szp_touches (s : State) (v : Byte) : Touches [.flag .s, .flag .z, .flag .p] [] s (s.szp v) :=
  ((setFlag_touches s .s _).trans (setFlag_touches _ .z _)).trans (setFlag_touches _ .p _)

theorem szp_flags (s : State) (v : Byte) :
    (s.szp v).flags =
      { s.flags with s := v.getLsbD 7, z := decide (v = 0#8), p := evenParity v } := rfl

theorem aluFlags_touches (s : State) (r : AluResult) : Touches allFlags [] s (s.aluFlags r) := by
  have h := ((setFlag_touches s .cy r.cy).trans (setFlag_touches _ .ac r.ac)).trans (szp_touches _ r.res)
  refine h.congr (fun l => ?_) (by simp)
  simp [allFlags]
  tauto

/-- The flags after an ALU operation are those of its result. -/
theorem aluFlags_flags (s : State) (r : AluResult) :
    (s.aluFlags r).flags =
      { s := r.res.getLsbD 7, z := decide (r.res = 0#8), ac := r.ac, p := evenParity r.res, cy := r.cy } := rfl

theorem alu_touches (s : State) (r : AluResult) : Touches (.reg .a :: allFlags) [] s (s.alu r) :=
  (setReg_touches s .a r.res).trans (aluFlags_touches _ r)

theorem alu_reg_a (s : State) (r : AluResult) : (s.alu r).reg .a = r.res := rfl

theorem alu_flags (s : State) (r : AluResult) :
    (s.alu r).flags =
      { s := r.res.getLsbD 7, z := decide (r.res = 0#8), ac := r.ac, p := evenParity r.res, cy := r.cy } := rfl

/-- The bits of a rotation to the left: the new bit 0, and every other bit one place up. -/
theorem rotateIntoLow_bit (a : Byte) (b : Bool) (k : Nat) :
    (rotateIntoLow a b).getLsbD k = if k = 0 then b else decide (k < 8) && a.getLsbD (k - 1) := by
  refine (BitVec.getLsbD_append (x := a.extractLsb' 0 7) (y := BitVec.ofBool b)).trans ?_
  rcases k with _ | k
  · simp
  · have h : (k + 1 < 8) = (k < 7) := by rw [eq_iff_iff]; omega
    simp [BitVec.getLsbD_extractLsb', h]

/-- The bits of a rotation to the right: the new bit 7, and every other bit one place down. -/
theorem rotateIntoHigh_bit (a : Byte) (b : Bool) (k : Nat) :
    (rotateIntoHigh a b).getLsbD k = if k = 7 then b else decide (k < 7) && a.getLsbD (k + 1) := by
  refine (BitVec.getLsbD_append (x := BitVec.ofBool b) (y := a.extractLsb' 1 7)).trans ?_
  rcases Nat.lt_trichotomy k 7 with h | h | h
  · simp [h, h.ne, Nat.add_comm]
  · simp [h]
  · have h0 : ¬ k - 7 = 0 := by omega
    simp [Nat.not_lt.mpr h.le, h.ne', h0]

theorem rotate_touches (s : State) (v : Byte) (b : Bool) :
    Touches [.flag .cy, .reg .a] [] s (s.rotate v b) :=
  (setFlag_touches s .cy b).trans (setReg_touches _ .a v)

theorem increment_touches (s : State) (d : Operand) :
    Touches (operandLocs d ++ [.flag .ac, .flag .s, .flag .z, .flag .p]) (operandStores s d) s (s.increment d) := by
  have h := ((setDst_touches s d (s.src d + 1#8)).trans (setFlag_touches _ .ac (incAc (s.src d + 1#8)))).trans
    (szp_touches _ (s.src d + 1#8))
  exact h.congr (fun l => by simp) (by simp)

theorem decrement_touches (s : State) (d : Operand) :
    Touches (operandLocs d ++ [.flag .ac, .flag .s, .flag .z, .flag .p]) (operandStores s d) s (s.decrement d) := by
  have h := ((setDst_touches s d (s.src d - 1#8)).trans
    (setFlag_touches _ .ac (decAc s.params.acPolicy (s.src d - 1#8)))).trans (szp_touches _ (s.src d - 1#8))
  exact h.congr (fun l => by simp) (by simp)

theorem addHl_touches (s : State) (v : Word) : Touches [.reg .h, .reg .l, .flag .cy] [] s (s.addHl v) :=
  (setPair_touches s .hl _).trans (setFlag_touches _ .cy _)

theorem setFlagByte_touches (s : State) (b : Byte) : Touches allFlags [] s (s.setFlagByte b) :=
  ((((setFlag_touches s .s _).trans (setFlag_touches _ .z _)).trans (setFlag_touches _ .ac _)).trans
    (setFlag_touches _ .p _)).trans (setFlag_touches _ .cy _)

/-- The places POP writes besides SP. -/
def stackPairLocs : StackPair → List Loc
  | .bc => pairLocs .bc
  | .de => pairLocs .de
  | .hl => pairLocs .hl
  | .psw => .reg .a :: allFlags

theorem setStackPair_touches (s : State) (p : StackPair) (v : Word) :
    Touches (stackPairLocs p) [] s (s.setStackPair p v) := by
  cases p
  · exact setPair_touches s .bc v
  · exact setPair_touches s .de v
  · exact setPair_touches s .hl v
  · exact (setReg_touches s .a (hiByte v)).trans (setFlagByte_touches _ (loByte v))

/-! ### Completion -/

/-- An instruction that completes answers its effect on the fetched state, with its cycle count. -/
theorem completes_eq (i : Instr) (s : State) (f : State → State) :
    completes i s f = .next ((f (s.fetched i.length)).report (cyclesOf s i)) := rfl

/-- A well-formed instruction completes whatever handler it has. -/
theorem completesIfKnown_of_wellFormed (i : Instr) (s : State) (f : State → State) (h : i.wellFormed = true) :
    completesIfKnown i s f = completes i s f := by
  simp [completesIfKnown, h]

/-- A term that is no instruction raises `UnhandledOperand` (60_exceptions.md R401). -/
theorem completesIfKnown_of_not (i : Instr) (s : State) (f : State → State) (h : i.wellFormed = false) :
    completesIfKnown i s f = raise .unhandledOperand i.opcode s := by
  simp [completesIfKnown, h]

/-- What a fault leaves (60_exceptions.md R402): the record and PC; all else is as it was. -/
theorem faulted_eq (s : State) (kind : FaultKind) (op : Byte) :
    s.faulted kind op = { s with fault := some { kind := kind, op := op, pc := s.pc }, pc := s.pc + 1#16 } := rfl

end Sys2Proof.Machine
end

