-- ==== Sys2Proof/Laws/Agree.lean ====
section
/-! SUPPORT. Two states that agree on every place that holds a value still agree after the same operation with the same
value on both: one lemma per operation. -/

namespace Sys2Proof.Machine

variable {s t : State}

theorem AgreeOnDefined.setReg (h : AgreeOnDefined s t) (r : Reg) (v : Byte) :
    AgreeOnDefined (s.setReg r v) (t.setReg r v) where
  unset := by simp [h.unset]
  regs := fun k hk => by
    simp only [setReg_unset, mem_define, not_and, ne_eq, not_not, Loc.reg.injEq] at hk
    simp only [setReg_reg]
    split
    · rfl
    · exact h.regs k fun hm => by simp_all
  flags := fun f hf => h.flags f (by simpa using hf)
  sp := fun hs => h.sp (by simpa using hs)
  pc := h.pc
  inte := h.inte
  eiShadow := h.eiShadow
  halted := h.halted
  fault := h.fault
  refusedMark := h.refusedMark
  mem := h.mem
  params := h.params
  env := h.env
  events := h.events

theorem AgreeOnDefined.setFlag (h : AgreeOnDefined s t) (f : Flag) (b : Bool) :
    AgreeOnDefined (s.setFlag f b) (t.setFlag f b) where
  unset := by simp [h.unset]
  regs := fun r hr => h.regs r (by simpa using hr)
  flags := fun k hk => by
    simp only [setFlag_unset, mem_define, not_and, ne_eq, not_not, Loc.flag.injEq] at hk
    simp only [setFlag_flag]
    split
    · rfl
    · exact h.flags k fun hm => by simp_all
  sp := fun hs => h.sp (by simpa using hs)
  pc := h.pc
  inte := h.inte
  eiShadow := h.eiShadow
  halted := h.halted
  fault := h.fault
  refusedMark := h.refusedMark
  mem := h.mem
  params := h.params
  env := h.env
  events := h.events

theorem AgreeOnDefined.setSp (h : AgreeOnDefined s t) (v : Word) : AgreeOnDefined (s.setSp v) (t.setSp v) where
  unset := by simp [h.unset]
  regs := fun r hr => h.regs r (by simpa using hr)
  flags := fun f hf => h.flags f (by simpa using hf)
  sp := fun _ => rfl
  pc := h.pc
  inte := h.inte
  eiShadow := h.eiShadow
  halted := h.halted
  fault := h.fault
  refusedMark := h.refusedMark
  mem := h.mem
  params := h.params
  env := h.env
  events := h.events

theorem AgreeOnDefined.setPc (h : AgreeOnDefined s t) (v : Word) : AgreeOnDefined (s.setPc v) (t.setPc v) :=
  { h with pc := rfl }

theorem AgreeOnDefined.write (h : AgreeOnDefined s t) (a : Word) (v : Byte) :
    AgreeOnDefined (s.write a v) (t.write a v) :=
  { h with mem := congrArg (fun m => Memory.write m a v) h.mem }

theorem AgreeOnDefined.fetched (h : AgreeOnDefined s t) (n : Nat) : AgreeOnDefined (s.fetched n) (t.fetched n) :=
  { h with
    pc := congrArg (fun pc => pc + BitVec.ofNat 16 n) h.pc
    eiShadow := rfl }

theorem AgreeOnDefined.report (h : AgreeOnDefined s t) (m n : Nat) : AgreeOnDefined (s.report m) (t.report n) :=
  { h with }

theorem AgreeOnDefined.sampled (h : AgreeOnDefined s t) : AgreeOnDefined s.sampled t.sampled :=
  { h with env := congrArg (fun e : Environment => { e with requests := e.requests.tail }) h.env }

theorem AgreeOnDefined.read (h : AgreeOnDefined s t) (a : Word) : t.read a = s.read a :=
  congrArg (fun m => Memory.read m a) h.mem

theorem AgreeOnDefined.ioAnswer (h : AgreeOnDefined s t) : t.ioAnswer = s.ioAnswer := by
  simp only [State.ioAnswer, h.env]

theorem AgreeOnDefined.ioIn (h : AgreeOnDefined s t) (p : Byte) : AgreeOnDefined (s.ioIn p) (t.ioIn p) :=
  { h with
    env := congrArg (fun e : Environment => { e with inputs := e.inputs.tail, draws := e.draws + 1 }) h.env
    events := by simp [h.events, h.ioAnswer] }

theorem AgreeOnDefined.ioOut (h : AgreeOnDefined s t) (p v : Byte) : AgreeOnDefined (s.ioOut p v) (t.ioOut p v) :=
  { h with events := by simp [h.events] }

/-! ### The operations built from these -/

theorem AgreeOnDefined.setPair (h : AgreeOnDefined s t) (p : RegPair) (v : Word) :
    AgreeOnDefined (s.setPair p v) (t.setPair p v) := by
  cases p
  · exact (h.setReg .b _).setReg .c _
  · exact (h.setReg .d _).setReg .e _
  · exact (h.setReg .h _).setReg .l _
  · exact h.setSp v

theorem AgreeOnDefined.writeWord (h : AgreeOnDefined s t) (a v : Word) :
    AgreeOnDefined (s.writeWord a v) (t.writeWord a v) := (h.write a _).write (a + 1#16) _

theorem AgreeOnDefined.szp (h : AgreeOnDefined s t) (v : Byte) : AgreeOnDefined (s.szp v) (t.szp v) :=
  ((h.setFlag .s _).setFlag .z _).setFlag .p _

theorem AgreeOnDefined.aluFlags (h : AgreeOnDefined s t) (r : AluResult) :
    AgreeOnDefined (s.aluFlags r) (t.aluFlags r) := ((h.setFlag .cy _).setFlag .ac _).szp _

theorem AgreeOnDefined.alu (h : AgreeOnDefined s t) (r : AluResult) : AgreeOnDefined (s.alu r) (t.alu r) :=
  (h.setReg .a _).aluFlags r

theorem AgreeOnDefined.setFlagByte (h : AgreeOnDefined s t) (b : Byte) :
    AgreeOnDefined (s.setFlagByte b) (t.setFlagByte b) :=
  ((((h.setFlag .s _).setFlag .z _).setFlag .ac _).setFlag .p _).setFlag .cy _

theorem AgreeOnDefined.setStackPair (h : AgreeOnDefined s t) (p : StackPair) (v : Word) :
    AgreeOnDefined (s.setStackPair p v) (t.setStackPair p v) := by
  cases p
  · exact h.setPair .bc v
  · exact h.setPair .de v
  · exact h.setPair .hl v
  · exact (h.setReg .a _).setFlagByte _

/-- With SP defined, both push to the same place. -/
theorem AgreeOnDefined.push16 (h : AgreeOnDefined s t) (hs : Loc.sp ∉ s.unset) (v : Word) :
    AgreeOnDefined (s.push16 v) (t.push16 v) := by
  simp only [State.push16, State.push8, h.sp hs, write_sp, setSp_sp]
  exact (((h.setSp _).write _ _).setSp _).write _ _

/-- With SP defined, both see the same top of the stack. -/
theorem AgreeOnDefined.top16 (h : AgreeOnDefined s t) (hs : Loc.sp ∉ s.unset) : t.top16 = s.top16 := by
  simp only [State.top16, State.readWord, h.sp hs, h.read]

theorem AgreeOnDefined.drop16 (h : AgreeOnDefined s t) (hs : Loc.sp ∉ s.unset) :
    AgreeOnDefined s.drop16 t.drop16 := by
  simp only [State.drop16, h.sp hs]
  exact h.setSp _

end Sys2Proof.Machine
end

