-- ==== Sys2Proof/Laws/Exec.lean ====
section
/-! SUPPORT. What `exec` and `step` answer: one equation per instruction, the two ways `exec` can end, and one equation
per case of a step (40_execute.md R151). -/

namespace Sys2Proof.Machine

/-! ### One equation per instruction -/

@[simp] theorem exec_add (src : Operand) (s : State) :
    exec (.add src) s = completes (.add src) s fun s => s.addA (s.src src) false := rfl
@[simp] theorem exec_adi (d8 : Byte) (s : State) :
    exec (.adi d8) s = completes (.adi d8) s fun s => s.addA d8 false := rfl
@[simp] theorem exec_adc (src : Operand) (s : State) :
    exec (.adc src) s = completes (.adc src) s fun s => s.addA (s.src src) (s.flag .cy) := rfl
@[simp] theorem exec_aci (d8 : Byte) (s : State) :
    exec (.aci d8) s = completes (.aci d8) s fun s => s.addA d8 (s.flag .cy) := rfl
@[simp] theorem exec_sub (src : Operand) (s : State) :
    exec (.sub src) s = completes (.sub src) s fun s => s.subA (s.src src) false := rfl
@[simp] theorem exec_sui (d8 : Byte) (s : State) :
    exec (.sui d8) s = completes (.sui d8) s fun s => s.subA d8 false := rfl
@[simp] theorem exec_sbb (src : Operand) (s : State) :
    exec (.sbb src) s = completes (.sbb src) s fun s => s.subA (s.src src) (s.flag .cy) := rfl
@[simp] theorem exec_sbi (d8 : Byte) (s : State) :
    exec (.sbi d8) s = completes (.sbi d8) s fun s => s.subA d8 (s.flag .cy) := rfl
@[simp] theorem exec_cmp (src : Operand) (s : State) :
    exec (.cmp src) s = completes (.cmp src) s fun s => s.cmpA (s.src src) := rfl
@[simp] theorem exec_cpi (d8 : Byte) (s : State) :
    exec (.cpi d8) s = completes (.cpi d8) s fun s => s.cmpA d8 := rfl
@[simp] theorem exec_inr (dst : Operand) (s : State) :
    exec (.inr dst) s = completes (.inr dst) s fun s => s.increment dst := rfl
@[simp] theorem exec_dcr (dst : Operand) (s : State) :
    exec (.dcr dst) s = completes (.dcr dst) s fun s => s.decrement dst := rfl
@[simp] theorem exec_daa (s : State) :
    exec .daa s = completes .daa s fun s => s.alu (daa8 (s.reg .a) (s.flag .ac) (s.flag .cy)) := rfl
@[simp] theorem exec_ana (src : Operand) (s : State) :
    exec (.ana src) s = completes (.ana src) s fun s => s.andA (s.src src) := rfl
@[simp] theorem exec_ani (d8 : Byte) (s : State) :
    exec (.ani d8) s = completes (.ani d8) s fun s => s.andA d8 := rfl
@[simp] theorem exec_xra (src : Operand) (s : State) :
    exec (.xra src) s = completes (.xra src) s fun s => s.xorA (s.src src) := rfl
@[simp] theorem exec_xri (d8 : Byte) (s : State) :
    exec (.xri d8) s = completes (.xri d8) s fun s => s.xorA d8 := rfl
@[simp] theorem exec_ora (src : Operand) (s : State) :
    exec (.ora src) s = completes (.ora src) s fun s => s.orA (s.src src) := rfl
@[simp] theorem exec_ori (d8 : Byte) (s : State) :
    exec (.ori d8) s = completes (.ori d8) s fun s => s.orA d8 := rfl
@[simp] theorem exec_cma (s : State) :
    exec .cma s = completes .cma s fun s => s.setReg .a (~~~ s.reg .a) := rfl
@[simp] theorem exec_cmc (s : State) :
    exec .cmc s = completes .cmc s fun s => s.setFlag .cy (!s.flag .cy) := rfl
@[simp] theorem exec_stc (s : State) :
    exec .stc s = completes .stc s fun s => s.setFlag .cy true := rfl
@[simp] theorem exec_rlc (s : State) :
    exec .rlc s = completes .rlc s fun s =>
      s.rotate (rotateIntoLow (s.reg .a) ((s.reg .a).getLsbD 7)) ((s.reg .a).getLsbD 7) := rfl
@[simp] theorem exec_rrc (s : State) :
    exec .rrc s = completes .rrc s fun s =>
      s.rotate (rotateIntoHigh (s.reg .a) ((s.reg .a).getLsbD 0)) ((s.reg .a).getLsbD 0) := rfl
@[simp] theorem exec_ral (s : State) :
    exec .ral s = completes .ral s fun s =>
      s.rotate (rotateIntoLow (s.reg .a) (s.flag .cy)) ((s.reg .a).getLsbD 7) := rfl
@[simp] theorem exec_rar (s : State) :
    exec .rar s = completes .rar s fun s =>
      s.rotate (rotateIntoHigh (s.reg .a) (s.flag .cy)) ((s.reg .a).getLsbD 0) := rfl
@[simp] theorem exec_mov (dst : Operand) (src : Operand) (s : State) :
    exec (.mov dst src) s = completesIfKnown (.mov dst src) s fun s => s.setDst dst (s.src src) := rfl
@[simp] theorem exec_mvi (dst : Operand) (d8 : Byte) (s : State) :
    exec (.mvi dst d8) s = completes (.mvi dst d8) s fun s => s.setDst dst d8 := rfl
@[simp] theorem exec_lxi (pair : RegPair) (d16 : Word) (s : State) :
    exec (.lxi pair d16) s = completes (.lxi pair d16) s fun s => s.setPair pair d16 := rfl
@[simp] theorem exec_lda (a16 : Word) (s : State) :
    exec (.lda a16) s = completes (.lda a16) s fun s => s.setReg .a (s.read a16) := rfl
@[simp] theorem exec_sta (a16 : Word) (s : State) :
    exec (.sta a16) s = completes (.sta a16) s fun s => s.write a16 (s.reg .a) := rfl
@[simp] theorem exec_lhld (a16 : Word) (s : State) :
    exec (.lhld a16) s = completes (.lhld a16) s fun s => s.setPair .hl (s.readWord a16) := rfl
@[simp] theorem exec_shld (a16 : Word) (s : State) :
    exec (.shld a16) s = completes (.shld a16) s fun s => s.writeWord a16 (s.pair .hl) := rfl
@[simp] theorem exec_ldax (pair : RegPair) (s : State) :
    exec (.ldax pair) s = completesIfKnown (.ldax pair) s fun s => s.setReg .a (s.read (s.pair pair)) := rfl
@[simp] theorem exec_stax (pair : RegPair) (s : State) :
    exec (.stax pair) s = completesIfKnown (.stax pair) s fun s => s.write (s.pair pair) (s.reg .a) := rfl
@[simp] theorem exec_xchg (s : State) :
    exec .xchg s = completes .xchg s fun s => (s.setPair .hl (s.pair .de)).setPair .de (s.pair .hl) := rfl
@[simp] theorem exec_inx (pair : RegPair) (s : State) :
    exec (.inx pair) s = completes (.inx pair) s fun s => s.setPair pair (s.pair pair + 1#16) := rfl
@[simp] theorem exec_dcx (pair : RegPair) (s : State) :
    exec (.dcx pair) s = completes (.dcx pair) s fun s => s.setPair pair (s.pair pair - 1#16) := rfl
@[simp] theorem exec_dad (pair : RegPair) (s : State) :
    exec (.dad pair) s = completes (.dad pair) s fun s => s.addHl (s.pair pair) := rfl
@[simp] theorem exec_push (pair : StackPair) (s : State) :
    exec (.push pair) s = completes (.push pair) s fun s => s.push16 (s.stackPair pair) := rfl
@[simp] theorem exec_pop (pair : StackPair) (s : State) :
    exec (.pop pair) s = completes (.pop pair) s fun s => s.drop16.setStackPair pair s.top16 := rfl
@[simp] theorem exec_xthl (s : State) :
    exec .xthl s = completes .xthl s fun s => (s.writeWord s.sp (s.pair .hl)).setPair .hl (s.readWord s.sp) := rfl
@[simp] theorem exec_sphl (s : State) :
    exec .sphl s = completes .sphl s fun s => s.setSp (s.pair .hl) := rfl
@[simp] theorem exec_jmp (a16 : Word) (s : State) :
    exec (.jmp a16) s = completes (.jmp a16) s fun s => s.jump a16 := rfl
@[simp] theorem exec_jnz (a16 : Word) (s : State) :
    exec (.jnz a16) s = completes (.jnz a16) s fun s => s.doIf .nz (fun s => s.jump a16) := rfl
@[simp] theorem exec_jz (a16 : Word) (s : State) :
    exec (.jz a16) s = completes (.jz a16) s fun s => s.doIf .z (fun s => s.jump a16) := rfl
@[simp] theorem exec_jnc (a16 : Word) (s : State) :
    exec (.jnc a16) s = completes (.jnc a16) s fun s => s.doIf .nc (fun s => s.jump a16) := rfl
@[simp] theorem exec_jc (a16 : Word) (s : State) :
    exec (.jc a16) s = completes (.jc a16) s fun s => s.doIf .c (fun s => s.jump a16) := rfl
@[simp] theorem exec_jpo (a16 : Word) (s : State) :
    exec (.jpo a16) s = completes (.jpo a16) s fun s => s.doIf .po (fun s => s.jump a16) := rfl
@[simp] theorem exec_jpe (a16 : Word) (s : State) :
    exec (.jpe a16) s = completes (.jpe a16) s fun s => s.doIf .pe (fun s => s.jump a16) := rfl
@[simp] theorem exec_jp (a16 : Word) (s : State) :
    exec (.jp a16) s = completes (.jp a16) s fun s => s.doIf .p (fun s => s.jump a16) := rfl
@[simp] theorem exec_jm (a16 : Word) (s : State) :
    exec (.jm a16) s = completes (.jm a16) s fun s => s.doIf .m (fun s => s.jump a16) := rfl
@[simp] theorem exec_call (a16 : Word) (s : State) :
    exec (.call a16) s = completes (.call a16) s fun s => s.call a16 := rfl
@[simp] theorem exec_cnz (a16 : Word) (s : State) :
    exec (.cnz a16) s = completes (.cnz a16) s fun s => s.doIf .nz (fun s => s.call a16) := rfl
@[simp] theorem exec_cz (a16 : Word) (s : State) :
    exec (.cz a16) s = completes (.cz a16) s fun s => s.doIf .z (fun s => s.call a16) := rfl
@[simp] theorem exec_cnc (a16 : Word) (s : State) :
    exec (.cnc a16) s = completes (.cnc a16) s fun s => s.doIf .nc (fun s => s.call a16) := rfl
@[simp] theorem exec_cc (a16 : Word) (s : State) :
    exec (.cc a16) s = completes (.cc a16) s fun s => s.doIf .c (fun s => s.call a16) := rfl
@[simp] theorem exec_cpo (a16 : Word) (s : State) :
    exec (.cpo a16) s = completes (.cpo a16) s fun s => s.doIf .po (fun s => s.call a16) := rfl
@[simp] theorem exec_cpe (a16 : Word) (s : State) :
    exec (.cpe a16) s = completes (.cpe a16) s fun s => s.doIf .pe (fun s => s.call a16) := rfl
@[simp] theorem exec_cp (a16 : Word) (s : State) :
    exec (.cp a16) s = completes (.cp a16) s fun s => s.doIf .p (fun s => s.call a16) := rfl
@[simp] theorem exec_cm (a16 : Word) (s : State) :
    exec (.cm a16) s = completes (.cm a16) s fun s => s.doIf .m (fun s => s.call a16) := rfl
@[simp] theorem exec_ret (s : State) :
    exec .ret s = completes .ret s fun s => s.returned := rfl
@[simp] theorem exec_rnz (s : State) :
    exec .rnz s = completes .rnz s fun s => s.doIf .nz State.returned := rfl
@[simp] theorem exec_rz (s : State) :
    exec .rz s = completes .rz s fun s => s.doIf .z State.returned := rfl
@[simp] theorem exec_rnc (s : State) :
    exec .rnc s = completes .rnc s fun s => s.doIf .nc State.returned := rfl
@[simp] theorem exec_rc (s : State) :
    exec .rc s = completes .rc s fun s => s.doIf .c State.returned := rfl
@[simp] theorem exec_rpo (s : State) :
    exec .rpo s = completes .rpo s fun s => s.doIf .po State.returned := rfl
@[simp] theorem exec_rpe (s : State) :
    exec .rpe s = completes .rpe s fun s => s.doIf .pe State.returned := rfl
@[simp] theorem exec_rp (s : State) :
    exec .rp s = completes .rp s fun s => s.doIf .p State.returned := rfl
@[simp] theorem exec_rm (s : State) :
    exec .rm s = completes .rm s fun s => s.doIf .m State.returned := rfl
@[simp] theorem exec_rst (n : BitVec 3) (s : State) :
    exec (.rst n) s = completes (.rst n) s fun s => s.restart n := rfl
@[simp] theorem exec_pchl (s : State) :
    exec .pchl s = completes .pchl s fun s => s.setPc (s.pair .hl) := rfl
@[simp] theorem exec_nop (s : State) :
    exec .nop s = completes .nop s fun s => s := rfl
@[simp] theorem exec_hlt (s : State) :
    exec .hlt s = completes .hlt s fun s => { s with halted := true } := rfl
@[simp] theorem exec_ei (s : State) :
    exec .ei s = completes .ei s fun s => { s with inte := true, eiShadow := true } := rfl
@[simp] theorem exec_di (s : State) :
    exec .di s = completes .di s fun s => { s with inte := false } := rfl
@[simp] theorem exec_inp (p8 : Byte) (s : State) :
    exec (.inp p8) s = completes (.inp p8) s fun s => (s.ioIn p8).setReg .a s.ioAnswer := rfl
@[simp] theorem exec_out (p8 : Byte) (s : State) :
    exec (.out p8) s = completes (.out p8) s fun s => s.ioOut p8 (s.reg .a) := rfl

/-- `exec` completes a well-formed instruction, and raises `UnhandledOperand` for any other term (40_execute.md R154). -/
theorem exec_cases (i : Instr) (s : State) :
    (i.wellFormed = true ∧ ∃ f : State → State, exec i s = completes i s f) ∨
    (i.wellFormed = false ∧ exec i s = raise .unhandledOperand i.opcode s) := by
  cases i with
  | mov dst src =>
    rw [exec_mov]
    cases h : (Instr.mov dst src).wellFormed
    · exact .inr ⟨rfl, completesIfKnown_of_not _ _ _ h⟩
    · exact .inl ⟨rfl, _, completesIfKnown_of_wellFormed _ _ _ h⟩
  | ldax pair =>
    rw [exec_ldax]
    cases h : (Instr.ldax pair).wellFormed
    · exact .inr ⟨rfl, completesIfKnown_of_not _ _ _ h⟩
    · exact .inl ⟨rfl, _, completesIfKnown_of_wellFormed _ _ _ h⟩
  | stax pair =>
    rw [exec_stax]
    cases h : (Instr.stax pair).wellFormed
    · exact .inr ⟨rfl, completesIfKnown_of_not _ _ _ h⟩
    · exact .inl ⟨rfl, _, completesIfKnown_of_wellFormed _ _ _ h⟩
  | add _ => exact .inl ⟨rfl, _, exec_add _ s⟩
  | adi _ => exact .inl ⟨rfl, _, exec_adi _ s⟩
  | adc _ => exact .inl ⟨rfl, _, exec_adc _ s⟩
  | aci _ => exact .inl ⟨rfl, _, exec_aci _ s⟩
  | sub _ => exact .inl ⟨rfl, _, exec_sub _ s⟩
  | sui _ => exact .inl ⟨rfl, _, exec_sui _ s⟩
  | sbb _ => exact .inl ⟨rfl, _, exec_sbb _ s⟩
  | sbi _ => exact .inl ⟨rfl, _, exec_sbi _ s⟩
  | cmp _ => exact .inl ⟨rfl, _, exec_cmp _ s⟩
  | cpi _ => exact .inl ⟨rfl, _, exec_cpi _ s⟩
  | inr _ => exact .inl ⟨rfl, _, exec_inr _ s⟩
  | dcr _ => exact .inl ⟨rfl, _, exec_dcr _ s⟩
  | daa => exact .inl ⟨rfl, _, exec_daa s⟩
  | ana _ => exact .inl ⟨rfl, _, exec_ana _ s⟩
  | ani _ => exact .inl ⟨rfl, _, exec_ani _ s⟩
  | xra _ => exact .inl ⟨rfl, _, exec_xra _ s⟩
  | xri _ => exact .inl ⟨rfl, _, exec_xri _ s⟩
  | ora _ => exact .inl ⟨rfl, _, exec_ora _ s⟩
  | ori _ => exact .inl ⟨rfl, _, exec_ori _ s⟩
  | cma => exact .inl ⟨rfl, _, exec_cma s⟩
  | cmc => exact .inl ⟨rfl, _, exec_cmc s⟩
  | stc => exact .inl ⟨rfl, _, exec_stc s⟩
  | rlc => exact .inl ⟨rfl, _, exec_rlc s⟩
  | rrc => exact .inl ⟨rfl, _, exec_rrc s⟩
  | ral => exact .inl ⟨rfl, _, exec_ral s⟩
  | rar => exact .inl ⟨rfl, _, exec_rar s⟩
  | mvi _ _ => exact .inl ⟨rfl, _, exec_mvi _ _ s⟩
  | lxi _ _ => exact .inl ⟨rfl, _, exec_lxi _ _ s⟩
  | lda _ => exact .inl ⟨rfl, _, exec_lda _ s⟩
  | sta _ => exact .inl ⟨rfl, _, exec_sta _ s⟩
  | lhld _ => exact .inl ⟨rfl, _, exec_lhld _ s⟩
  | shld _ => exact .inl ⟨rfl, _, exec_shld _ s⟩
  | xchg => exact .inl ⟨rfl, _, exec_xchg s⟩
  | inx _ => exact .inl ⟨rfl, _, exec_inx _ s⟩
  | dcx _ => exact .inl ⟨rfl, _, exec_dcx _ s⟩
  | dad _ => exact .inl ⟨rfl, _, exec_dad _ s⟩
  | push _ => exact .inl ⟨rfl, _, exec_push _ s⟩
  | pop _ => exact .inl ⟨rfl, _, exec_pop _ s⟩
  | xthl => exact .inl ⟨rfl, _, exec_xthl s⟩
  | sphl => exact .inl ⟨rfl, _, exec_sphl s⟩
  | jmp _ => exact .inl ⟨rfl, _, exec_jmp _ s⟩
  | jnz _ => exact .inl ⟨rfl, _, exec_jnz _ s⟩
  | jz _ => exact .inl ⟨rfl, _, exec_jz _ s⟩
  | jnc _ => exact .inl ⟨rfl, _, exec_jnc _ s⟩
  | jc _ => exact .inl ⟨rfl, _, exec_jc _ s⟩
  | jpo _ => exact .inl ⟨rfl, _, exec_jpo _ s⟩
  | jpe _ => exact .inl ⟨rfl, _, exec_jpe _ s⟩
  | jp _ => exact .inl ⟨rfl, _, exec_jp _ s⟩
  | jm _ => exact .inl ⟨rfl, _, exec_jm _ s⟩
  | call _ => exact .inl ⟨rfl, _, exec_call _ s⟩
  | cnz _ => exact .inl ⟨rfl, _, exec_cnz _ s⟩
  | cz _ => exact .inl ⟨rfl, _, exec_cz _ s⟩
  | cnc _ => exact .inl ⟨rfl, _, exec_cnc _ s⟩
  | cc _ => exact .inl ⟨rfl, _, exec_cc _ s⟩
  | cpo _ => exact .inl ⟨rfl, _, exec_cpo _ s⟩
  | cpe _ => exact .inl ⟨rfl, _, exec_cpe _ s⟩
  | cp _ => exact .inl ⟨rfl, _, exec_cp _ s⟩
  | cm _ => exact .inl ⟨rfl, _, exec_cm _ s⟩
  | ret => exact .inl ⟨rfl, _, exec_ret s⟩
  | rnz => exact .inl ⟨rfl, _, exec_rnz s⟩
  | rz => exact .inl ⟨rfl, _, exec_rz s⟩
  | rnc => exact .inl ⟨rfl, _, exec_rnc s⟩
  | rc => exact .inl ⟨rfl, _, exec_rc s⟩
  | rpo => exact .inl ⟨rfl, _, exec_rpo s⟩
  | rpe => exact .inl ⟨rfl, _, exec_rpe s⟩
  | rp => exact .inl ⟨rfl, _, exec_rp s⟩
  | rm => exact .inl ⟨rfl, _, exec_rm s⟩
  | rst _ => exact .inl ⟨rfl, _, exec_rst _ s⟩
  | pchl => exact .inl ⟨rfl, _, exec_pchl s⟩
  | nop => exact .inl ⟨rfl, _, exec_nop s⟩
  | hlt => exact .inl ⟨rfl, _, exec_hlt s⟩
  | ei => exact .inl ⟨rfl, _, exec_ei s⟩
  | di => exact .inl ⟨rfl, _, exec_di s⟩
  | inp _ => exact .inl ⟨rfl, _, exec_inp _ s⟩
  | out _ => exact .inl ⟨rfl, _, exec_out _ s⟩

/-! ### One equation per case of a step -/

variable {s : State}

/-- Case 1: a recorded fault is returned again. -/
theorem step_of_fault {r : FaultRecord} (h : s.fault = some r) : step s = .fault (r.toFault s) := by
  simp [step, executeStep, h]

/-- Case 1: no step follows a refusal. -/
theorem step_of_refusedMark (h : s.fault = none) (hm : s.refusedMark = true) : step s = .refused .afterRefusal := by
  simp [step, executeStep, h, hm]

/-- No fault and no refusal: the step is decided by the interrupt input, the halted bit and the fetch. -/
theorem step_of_live (h : s.fault = none) (hm : s.refusedMark = false) : step s = runningStep s := by
  simp [step, executeStep, h, hm]

/-- Case 2: a presented request that can be accepted is accepted. -/
theorem runningStep_accepts {n : BitVec 3} (hr : s.request = some n) (ha : s.acceptsInterrupt = true) :
    runningStep s = acceptanceStep n s.sampled := by
  simp [runningStep, hr, ha]

/-- Cases 3 and 4: nothing presented, or nothing accepted. -/
theorem runningStep_of_not (h : s.request = none ∨ s.acceptsInterrupt = false) :
    runningStep s = uninterruptedStep s.sampled := by
  rcases hr : s.request with _ | n
  · simp [runningStep, hr]
  · have ha : s.acceptsInterrupt = false := by simpa [hr] using h
    simp [runningStep, hr, ha]

/-- Case 3: a halted step is idle. -/
theorem uninterruptedStep_of_halted (h : s.halted = true) :
    uninterruptedStep s = .next (s.report Config.haltIdleCycles) := by
  simp [uninterruptedStep, h, idleStep]

/-- Case 4: an instruction step. -/
theorem uninterruptedStep_of_not_halted (h : s.halted = false) : uninterruptedStep s = instructionStep s := by
  simp [uninterruptedStep, h]

/-- Case 4, an absent opcode byte (60_exceptions.md R400). -/
theorem instructionStep_of_none (h : s.fetch = none) :
    instructionStep s = raise .unrecognizedOpcode (s.read s.pc) s := by
  simp [instructionStep, h]

/-- Case 4, a refused row (40_execute.md R153). -/
theorem instructionStep_of_refuses {i : Instr} (h : s.fetch = some i) (hr : refusesRow s i = true) :
    instructionStep s = .refused (.docOnly (s.read s.pc) s.refusing) := by
  simp [instructionStep, h, hr]

/-- Case 4, a read of a place without a value (60_exceptions.md R405). -/
theorem instructionStep_of_readsUnset {i : Instr} (h : s.fetch = some i) (hr : refusesRow s i = false)
    (hu : readsUnset s i = true) : instructionStep s = raise .uninitializedRead (s.read s.pc) s := by
  simp [instructionStep, h, hr, hu]

/-- Case 4, an instruction that is executed. -/
theorem instructionStep_of_exec {i : Instr} (h : s.fetch = some i) (hr : refusesRow s i = false)
    (hu : readsUnset s i = false) : instructionStep s = exec i s := by
  simp [instructionStep, h, hr, hu]

/-- A step in which no interrupt is accepted and that completes is idle, or it runs the instruction it fetched. -/
theorem uninterruptedStep_next {t : State} (h : uninterruptedStep s = .next t) :
    (s.halted = true ∧ t = s.report Config.haltIdleCycles) ∨
    (s.halted = false ∧ ∃ i, s.fetch = some i ∧ refusesRow s i = false ∧ readsUnset s i = false ∧ exec i s = .next t) := by
  cases hh : s.halted
  · rw [uninterruptedStep_of_not_halted hh] at h
    rcases hf : s.fetch with _ | i
    · rw [instructionStep_of_none hf] at h
      cases h
    · cases hr : refusesRow s i
      · cases hu : readsUnset s i
        · rw [instructionStep_of_exec hf hr hu] at h
          exact .inr ⟨rfl, i, rfl, hr, hu, h⟩
        · rw [instructionStep_of_readsUnset hf hr hu] at h
          cases h
      · rw [instructionStep_of_refuses hf hr] at h
        cases h
  · rw [uninterruptedStep_of_halted hh] at h
    cases h
    exact .inl ⟨rfl, rfl⟩

/-- Where every register and flag holds a value, as always under `RESET_MODE = zero`, no step raises `UninitializedRead`
(60_exceptions.md R405). -/
theorem step_ne_uninitializedRead (hf : s.fault = none) (hu : s.unset = []) (op : Byte) (pc : Word) (left : State) :
    step s ≠ .fault (.uninitializedRead op pc left) := by
  have hl : ∀ ls, s.sampled.lacks ls = false := fun ls => by simp [State.lacks, hu]
  have hi : instructionStep s.sampled ≠ .fault (.uninitializedRead op pc left) := by
    rcases hd : s.sampled.fetch with _ | i
    · simp [instructionStep_of_none hd, raise, FaultRecord.toFault]
    · cases hr : refusesRow s.sampled i
      · rw [instructionStep_of_exec hd hr (hl _)]
        rcases exec_cases i s.sampled with ⟨_, f, h⟩ | ⟨_, h⟩ <;> simp [h, completes_eq, raise, FaultRecord.toFault]
      · simp [instructionStep_of_refuses hd hr]
  have hn : uninterruptedStep s.sampled ≠ .fault (.uninitializedRead op pc left) := by
    unfold uninterruptedStep
    split
    · simp [idleStep]
    · exact hi
  cases hm : s.refusedMark
  · rw [step_of_live hf hm]
    unfold runningStep
    split
    · split
      · simp [acceptanceStep, hl]
      · exact hn
    · exact hn
  · simp [step_of_refusedMark hf hm]

/-- All that a completed step can be (40_execute.md R151): from a state without a fault or a refusal, an interrupt
accepted with SP holding a value, an idle step, or the instruction fetched. -/
theorem step_next_cases {t : State} (h : step s = .next t) :
    s.fault = none ∧ s.refusedMark = false ∧
    ((∃ n, s.request = some n ∧ s.acceptsInterrupt = true ∧ Loc.sp ∉ s.unset ∧
        t = (s.sampled.interrupted n).report acceptanceCycles) ∨
     ((s.request = none ∨ s.acceptsInterrupt = false) ∧
      ((s.halted = true ∧ t = s.sampled.report Config.haltIdleCycles) ∨
       (s.halted = false ∧ ∃ i, s.sampled.fetch = some i ∧ refusesRow s.sampled i = false ∧
         readsUnset s.sampled i = false ∧ exec i s.sampled = .next t)))) := by
  rcases hf : s.fault with _ | r
  · cases hm : s.refusedMark
    · rw [step_of_live hf hm] at h
      refine ⟨rfl, rfl, ?_⟩
      by_cases hn : s.request = none ∨ s.acceptsInterrupt = false
      · rw [runningStep_of_not hn] at h
        exact .inr ⟨hn, uninterruptedStep_next h⟩
      · rw [not_or, Bool.not_eq_false] at hn
        obtain ⟨n, hr⟩ := Option.ne_none_iff_exists'.mp hn.1
        rw [runningStep_accepts hr hn.2, acceptanceStep] at h
        cases hl : s.sampled.lacks [.sp]
        · rw [hl] at h
          cases h
          exact .inl ⟨n, hr, hn.2, by simpa [State.lacks] using hl, rfl⟩
        · rw [hl] at h
          cases h
    · rw [step_of_refusedMark hf hm] at h
      cases h
  · rw [step_of_fault hf] at h
    cases h

end Sys2Proof.Machine
end

