-- ==== Sys2Proof/Laws/PerInstr.lean ====
section
/-! SUPPORT. Facts about every instruction as syntax, one lemma per constructor of `Instr`. Family `EncodeLength`: the
encoding has the length of the table row, 1 to 3 bytes (30_encoding.md R110). -/

namespace Sys2Proof.Laws.EncodeLength

/-- The encoding has as many bytes as the instruction's length, and that is 1, 2 or 3 (R110). -/
def Statement (i : Instr) : Prop := (encode i).length = i.length ∧ 1 ≤ i.length ∧ i.length ≤ 3

/-- An instruction of at most two operand bytes has the statement. -/
theorem of_operandBytes {i : Instr} (h : i.operandBytes.length ≤ 2) : Statement i :=
  ⟨by rw [encode, Instr.length, List.length_cons, Nat.add_comm],
   by rw [Instr.length]; omega, by rw [Instr.length]; omega⟩

theorem add (src : Operand) : Statement (.add src) := of_operandBytes (Nat.le_of_ble_eq_true rfl)
theorem adi (d8 : Byte) : Statement (.adi d8) := of_operandBytes (Nat.le_of_ble_eq_true rfl)
theorem adc (src : Operand) : Statement (.adc src) := of_operandBytes (Nat.le_of_ble_eq_true rfl)
theorem aci (d8 : Byte) : Statement (.aci d8) := of_operandBytes (Nat.le_of_ble_eq_true rfl)
theorem sub (src : Operand) : Statement (.sub src) := of_operandBytes (Nat.le_of_ble_eq_true rfl)
theorem sui (d8 : Byte) : Statement (.sui d8) := of_operandBytes (Nat.le_of_ble_eq_true rfl)
theorem sbb (src : Operand) : Statement (.sbb src) := of_operandBytes (Nat.le_of_ble_eq_true rfl)
theorem sbi (d8 : Byte) : Statement (.sbi d8) := of_operandBytes (Nat.le_of_ble_eq_true rfl)
theorem cmp (src : Operand) : Statement (.cmp src) := of_operandBytes (Nat.le_of_ble_eq_true rfl)
theorem cpi (d8 : Byte) : Statement (.cpi d8) := of_operandBytes (Nat.le_of_ble_eq_true rfl)
theorem inr (dst : Operand) : Statement (.inr dst) := of_operandBytes (Nat.le_of_ble_eq_true rfl)
theorem dcr (dst : Operand) : Statement (.dcr dst) := of_operandBytes (Nat.le_of_ble_eq_true rfl)
theorem daa : Statement (.daa) := of_operandBytes (Nat.le_of_ble_eq_true rfl)
theorem ana (src : Operand) : Statement (.ana src) := of_operandBytes (Nat.le_of_ble_eq_true rfl)
theorem ani (d8 : Byte) : Statement (.ani d8) := of_operandBytes (Nat.le_of_ble_eq_true rfl)
theorem xra (src : Operand) : Statement (.xra src) := of_operandBytes (Nat.le_of_ble_eq_true rfl)
theorem xri (d8 : Byte) : Statement (.xri d8) := of_operandBytes (Nat.le_of_ble_eq_true rfl)
theorem ora (src : Operand) : Statement (.ora src) := of_operandBytes (Nat.le_of_ble_eq_true rfl)
theorem ori (d8 : Byte) : Statement (.ori d8) := of_operandBytes (Nat.le_of_ble_eq_true rfl)
theorem cma : Statement (.cma) := of_operandBytes (Nat.le_of_ble_eq_true rfl)
theorem cmc : Statement (.cmc) := of_operandBytes (Nat.le_of_ble_eq_true rfl)
theorem stc : Statement (.stc) := of_operandBytes (Nat.le_of_ble_eq_true rfl)
theorem rlc : Statement (.rlc) := of_operandBytes (Nat.le_of_ble_eq_true rfl)
theorem rrc : Statement (.rrc) := of_operandBytes (Nat.le_of_ble_eq_true rfl)
theorem ral : Statement (.ral) := of_operandBytes (Nat.le_of_ble_eq_true rfl)
theorem rar : Statement (.rar) := of_operandBytes (Nat.le_of_ble_eq_true rfl)
theorem mov (dst src : Operand) : Statement (.mov dst src) := of_operandBytes (Nat.le_of_ble_eq_true rfl)
theorem mvi (dst : Operand) (d8 : Byte) : Statement (.mvi dst d8) := of_operandBytes (Nat.le_of_ble_eq_true rfl)
theorem lxi (pair : RegPair) (d16 : Word) : Statement (.lxi pair d16) := of_operandBytes (Nat.le_of_ble_eq_true rfl)
theorem lda (a16 : Word) : Statement (.lda a16) := of_operandBytes (Nat.le_of_ble_eq_true rfl)
theorem sta (a16 : Word) : Statement (.sta a16) := of_operandBytes (Nat.le_of_ble_eq_true rfl)
theorem lhld (a16 : Word) : Statement (.lhld a16) := of_operandBytes (Nat.le_of_ble_eq_true rfl)
theorem shld (a16 : Word) : Statement (.shld a16) := of_operandBytes (Nat.le_of_ble_eq_true rfl)
theorem ldax (pair : RegPair) : Statement (.ldax pair) := of_operandBytes (Nat.le_of_ble_eq_true rfl)
theorem stax (pair : RegPair) : Statement (.stax pair) := of_operandBytes (Nat.le_of_ble_eq_true rfl)
theorem xchg : Statement (.xchg) := of_operandBytes (Nat.le_of_ble_eq_true rfl)
theorem inx (pair : RegPair) : Statement (.inx pair) := of_operandBytes (Nat.le_of_ble_eq_true rfl)
theorem dcx (pair : RegPair) : Statement (.dcx pair) := of_operandBytes (Nat.le_of_ble_eq_true rfl)
theorem dad (pair : RegPair) : Statement (.dad pair) := of_operandBytes (Nat.le_of_ble_eq_true rfl)
theorem push (pair : StackPair) : Statement (.push pair) := of_operandBytes (Nat.le_of_ble_eq_true rfl)
theorem pop (pair : StackPair) : Statement (.pop pair) := of_operandBytes (Nat.le_of_ble_eq_true rfl)
theorem xthl : Statement (.xthl) := of_operandBytes (Nat.le_of_ble_eq_true rfl)
theorem sphl : Statement (.sphl) := of_operandBytes (Nat.le_of_ble_eq_true rfl)
theorem jmp (a16 : Word) : Statement (.jmp a16) := of_operandBytes (Nat.le_of_ble_eq_true rfl)
theorem jnz (a16 : Word) : Statement (.jnz a16) := of_operandBytes (Nat.le_of_ble_eq_true rfl)
theorem jz (a16 : Word) : Statement (.jz a16) := of_operandBytes (Nat.le_of_ble_eq_true rfl)
theorem jnc (a16 : Word) : Statement (.jnc a16) := of_operandBytes (Nat.le_of_ble_eq_true rfl)
theorem jc (a16 : Word) : Statement (.jc a16) := of_operandBytes (Nat.le_of_ble_eq_true rfl)
theorem jpo (a16 : Word) : Statement (.jpo a16) := of_operandBytes (Nat.le_of_ble_eq_true rfl)
theorem jpe (a16 : Word) : Statement (.jpe a16) := of_operandBytes (Nat.le_of_ble_eq_true rfl)
theorem jp (a16 : Word) : Statement (.jp a16) := of_operandBytes (Nat.le_of_ble_eq_true rfl)
theorem jm (a16 : Word) : Statement (.jm a16) := of_operandBytes (Nat.le_of_ble_eq_true rfl)
theorem call (a16 : Word) : Statement (.call a16) := of_operandBytes (Nat.le_of_ble_eq_true rfl)
theorem cnz (a16 : Word) : Statement (.cnz a16) := of_operandBytes (Nat.le_of_ble_eq_true rfl)
theorem cz (a16 : Word) : Statement (.cz a16) := of_operandBytes (Nat.le_of_ble_eq_true rfl)
theorem cnc (a16 : Word) : Statement (.cnc a16) := of_operandBytes (Nat.le_of_ble_eq_true rfl)
theorem cc (a16 : Word) : Statement (.cc a16) := of_operandBytes (Nat.le_of_ble_eq_true rfl)
theorem cpo (a16 : Word) : Statement (.cpo a16) := of_operandBytes (Nat.le_of_ble_eq_true rfl)
theorem cpe (a16 : Word) : Statement (.cpe a16) := of_operandBytes (Nat.le_of_ble_eq_true rfl)
theorem cp (a16 : Word) : Statement (.cp a16) := of_operandBytes (Nat.le_of_ble_eq_true rfl)
theorem cm (a16 : Word) : Statement (.cm a16) := of_operandBytes (Nat.le_of_ble_eq_true rfl)
theorem ret : Statement (.ret) := of_operandBytes (Nat.le_of_ble_eq_true rfl)
theorem rnz : Statement (.rnz) := of_operandBytes (Nat.le_of_ble_eq_true rfl)
theorem rz : Statement (.rz) := of_operandBytes (Nat.le_of_ble_eq_true rfl)
theorem rnc : Statement (.rnc) := of_operandBytes (Nat.le_of_ble_eq_true rfl)
theorem rc : Statement (.rc) := of_operandBytes (Nat.le_of_ble_eq_true rfl)
theorem rpo : Statement (.rpo) := of_operandBytes (Nat.le_of_ble_eq_true rfl)
theorem rpe : Statement (.rpe) := of_operandBytes (Nat.le_of_ble_eq_true rfl)
theorem rp : Statement (.rp) := of_operandBytes (Nat.le_of_ble_eq_true rfl)
theorem rm : Statement (.rm) := of_operandBytes (Nat.le_of_ble_eq_true rfl)
theorem rst (n : BitVec 3) : Statement (.rst n) := of_operandBytes (Nat.le_of_ble_eq_true rfl)
theorem pchl : Statement (.pchl) := of_operandBytes (Nat.le_of_ble_eq_true rfl)
theorem nop : Statement (.nop) := of_operandBytes (Nat.le_of_ble_eq_true rfl)
theorem hlt : Statement (.hlt) := of_operandBytes (Nat.le_of_ble_eq_true rfl)
theorem ei : Statement (.ei) := of_operandBytes (Nat.le_of_ble_eq_true rfl)
theorem di : Statement (.di) := of_operandBytes (Nat.le_of_ble_eq_true rfl)
theorem inp (p8 : Byte) : Statement (.inp p8) := of_operandBytes (Nat.le_of_ble_eq_true rfl)
theorem out (p8 : Byte) : Statement (.out p8) := of_operandBytes (Nat.le_of_ble_eq_true rfl)

end Sys2Proof.Laws.EncodeLength
end

