-- ==== Sys2Proof/Tests/Slice0.lean ====
section
/-! SUPPORT. Tests. Expected results are the vectors and examples of the spec (95_test_vectors.md, and the rules each
docstring names), written out by hand; then one witness for each obligation that has hypotheses. -/

open Sys2Proof Sys2Proof.Machine Sys2Proof.Claims

namespace Sys2Proof.Tests

/-! ### Helpers -/

/-- What a vector of 95_test_vectors.md lists. -/
structure View where
  regs : Regs
  flags : Flags
  pc : Word
  sp : Word
  inte : Bool
  halted : Bool
  mem : Memory
  cycles : Nat
  deriving DecidableEq, Repr

/-- The view of a state, with a cycle count. -/
def view (s : State) (cycles : Nat) : View where
  regs := s.regs
  flags := s.flags
  pc := s.pc
  sp := s.sp
  inte := s.inte
  halted := s.halted
  mem := s.mem
  cycles := cycles

/-- One step's view and the cycle count it returns. -/
def stepView (s : State) : Option View :=
  match step s with
  | .next t => some (view t t.cycles)
  | .fault _ => none
  | .refused _ => none

/-- PC after one step. -/
def stepPc (s : State) : Option Word :=
  match step s with
  | .next t => some t.pc
  | .fault _ => none
  | .refused _ => none

/-- PC, SP and the two bytes at 0x23FE and 0x23FF after one step. -/
def stepStack (s : State) : Option (Word × Word × Byte × Byte) :=
  match step s with
  | .next t => some (t.pc, t.sp, t.read 0x23FE#16, t.read 0x23FF#16)
  | .fault _ => none
  | .refused _ => none

/-- The fault one step ends in. -/
def stepFault (s : State) : Option Fault :=
  match step s with
  | .next _ => none
  | .fault f => some f
  | .refused _ => none

/-- The refusal one step ends in. -/
def stepRefusal (s : State) : Option Refusal :=
  match step s with
  | .next _ => none
  | .fault _ => none
  | .refused r => some r

/-- The machine with other parameters. -/
def withParams (params : Params) : State := State.construct params [] Environment.silent

/-- The machine of `AC_POLICY = silicon_8080`. -/
def silicon : State := withParams { Params.default with acPolicy := .silicon8080 }

/-- The machine of `ADMIT_GK = doc_only`. -/
def docOnly : State := withParams { Params.default with admitGk := .docOnly }

/-- The machine of `RESET_MODE = undefined`. -/
def unsetMachine : State := withParams { Params.default with resetMode := .undefined }

/-- INTE set or cleared. -/
def setInte (s : State) (b : Bool) : State := { s with inte := b }

/-- The halted bit set or cleared. -/
def setHalted (s : State) (b : Bool) : State := { s with halted := b }

/-- A request with vector `n` presented at the coming step. -/
def requesting (s : State) (n : BitVec 3) : State := { s with env := { s.env with requests := [some n] } }

/-- A program byte string at `addr`, PC there, SP at 0x2400 and 0x00, 0x03 on the stack. -/
def at0100 (bytes : List Byte) : State :=
  ((((State.reset.load 0x0100#16 bytes).setPc 0x0100#16).setSp 0x2400#16).write 0x2400#16 0x34#8).write 0x2401#16 0x12#8

/-! ### Every check of WellFormed refuses an ill-formed term, and passes its neighbours -/

theorem test_wf_mov : (Instr.mov .m .m).wellFormed = false ∧ (Instr.mov .m (.reg .a)).wellFormed = true ∧
    (Instr.mov (.reg .a) .m).wellFormed = true := by decide

theorem test_wf_ldax : (Instr.ldax .hl).wellFormed = false ∧ (Instr.ldax .sp).wellFormed = false ∧
    (Instr.ldax .bc).wellFormed = true ∧ (Instr.ldax .de).wellFormed = true := by decide

theorem test_wf_stax : (Instr.stax .hl).wellFormed = false ∧ (Instr.stax .sp).wellFormed = false ∧
    (Instr.stax .bc).wellFormed = true ∧ (Instr.stax .de).wellFormed = true := by decide

/-! ### Decoding: one word of every constructor, from the Encoding lines of the rules, bit by bit -/

/-- ALU_R `10 ooo sss` (R180, R183, R186, R189, R192, R230, R233, R236). -/
theorem test_decode_alu_register :
    decode [0b10000001#8] = .ok (.add (.reg .c), []) ∧
    decode [0b10001010#8] = .ok (.adc (.reg .d), []) ∧
    decode [0b10010011#8] = .ok (.sub (.reg .e), []) ∧
    decode [0b10011110#8] = .ok (.sbb .m, []) ∧
    decode [0b10100100#8] = .ok (.ana (.reg .h), []) ∧
    decode [0b10101101#8] = .ok (.xra (.reg .l), []) ∧
    decode [0b10110111#8] = .ok (.ora (.reg .a), []) ∧
    decode [0b10111000#8] = .ok (.cmp (.reg .b), []) := by decide

/-- ALU_I `11 ooo 110` (R182, R185, R188, R191, R194, R232, R235, R238). -/
theorem test_decode_alu_immediate :
    decode [0b11000110#8, 0x5A#8] = .ok (.adi 0x5A#8, []) ∧
    decode [0b11001110#8, 0x5A#8] = .ok (.aci 0x5A#8, []) ∧
    decode [0b11010110#8, 0x5A#8] = .ok (.sui 0x5A#8, []) ∧
    decode [0b11011110#8, 0x5A#8] = .ok (.sbi 0x5A#8, []) ∧
    decode [0b11100110#8, 0x5A#8] = .ok (.ani 0x5A#8, []) ∧
    decode [0b11101110#8, 0x5A#8] = .ok (.xri 0x5A#8, []) ∧
    decode [0b11110110#8, 0x5A#8] = .ok (.ori 0x5A#8, []) ∧
    decode [0b11111110#8, 0x5A#8] = .ok (.cpi 0x5A#8, []) := by decide

/-- INR_DCR `00 ddd 10f` and the fixed bytes of the accumulator (R200, R204, R210, R240 to R248). -/
theorem test_decode_count_and_adjust :
    decode [0b00000100#8] = .ok (.inr (.reg .b), []) ∧
    decode [0b00110101#8] = .ok (.dcr .m, []) ∧
    decode [0b00100111#8] = .ok (.daa, []) ∧
    decode [0b00101111#8] = .ok (.cma, []) ∧
    decode [0b00111111#8] = .ok (.cmc, []) ∧
    decode [0b00110111#8] = .ok (.stc, []) ∧
    decode [0b00000111#8] = .ok (.rlc, []) ∧
    decode [0b00001111#8] = .ok (.rrc, []) ∧
    decode [0b00010111#8] = .ok (.ral, []) ∧
    decode [0b00011111#8] = .ok (.rar, []) := by decide

/-- Data transfer (R260 to R269). -/
theorem test_decode_transfer :
    decode [0b01011010#8] = .ok (.mov (.reg .e) (.reg .d), []) ∧
    decode [0b01110111#8] = .ok (.mov .m (.reg .a), []) ∧
    decode [0b00111110#8, 0x5A#8] = .ok (.mvi (.reg .a) 0x5A#8, []) ∧
    decode [0b00010001#8, 0x34#8, 0x12#8] = .ok (.lxi .de 0x1234#16, []) ∧
    decode [0b00111010#8, 0x34#8, 0x12#8] = .ok (.lda 0x1234#16, []) ∧
    decode [0b00110010#8, 0x34#8, 0x12#8] = .ok (.sta 0x1234#16, []) ∧
    decode [0b00101010#8, 0x34#8, 0x12#8] = .ok (.lhld 0x1234#16, []) ∧
    decode [0b00100010#8, 0x34#8, 0x12#8] = .ok (.shld 0x1234#16, []) := by decide

/-- LDAX, STAX `000 r zzzz` and XCHG (R270 to R272). -/
theorem test_decode_indirect_and_exchange :
    decode [0b00001010#8] = .ok (.ldax .bc, []) ∧
    decode [0b00010010#8] = .ok (.stax .de, []) ∧
    decode [0b11101011#8] = .ok (.xchg, []) := by decide

/-- Register pairs and the stack (R290 to R292, R300 to R306). -/
theorem test_decode_pair_and_stack :
    decode [0b00100011#8] = .ok (.inx .hl, []) ∧
    decode [0b00111011#8] = .ok (.dcx .sp, []) ∧
    decode [0b00001001#8] = .ok (.dad .bc, []) ∧
    decode [0b11110101#8] = .ok (.push .psw, []) ∧
    decode [0b11010001#8] = .ok (.pop .de, []) ∧
    decode [0b11100011#8] = .ok (.xthl, []) ∧
    decode [0b11111001#8] = .ok (.sphl, []) := by decide

/-- JMP and COND_JMP `11 ccc 010` (R321 to R329), PCHL (R349). -/
theorem test_decode_jumps :
    decode [0b11000011#8, 0x34#8, 0x12#8] = .ok (.jmp 0x1234#16, []) ∧
    decode [0b11000010#8, 0x34#8, 0x12#8] = .ok (.jnz 0x1234#16, []) ∧
    decode [0b11001010#8, 0x34#8, 0x12#8] = .ok (.jz 0x1234#16, []) ∧
    decode [0b11010010#8, 0x34#8, 0x12#8] = .ok (.jnc 0x1234#16, []) ∧
    decode [0b11011010#8, 0x34#8, 0x12#8] = .ok (.jc 0x1234#16, []) ∧
    decode [0b11100010#8, 0x34#8, 0x12#8] = .ok (.jpo 0x1234#16, []) ∧
    decode [0b11101010#8, 0x34#8, 0x12#8] = .ok (.jpe 0x1234#16, []) ∧
    decode [0b11110010#8, 0x34#8, 0x12#8] = .ok (.jp 0x1234#16, []) ∧
    decode [0b11111010#8, 0x34#8, 0x12#8] = .ok (.jm 0x1234#16, []) ∧
    decode [0b11101001#8] = .ok (.pchl, []) := by decide

/-- CALL and COND_CALL `11 ccc 100` (R330 to R338), RST `11 nnn 111` (R348). -/
theorem test_decode_calls :
    decode [0b11001101#8, 0x34#8, 0x12#8] = .ok (.call 0x1234#16, []) ∧
    decode [0b11000100#8, 0x34#8, 0x12#8] = .ok (.cnz 0x1234#16, []) ∧
    decode [0b11001100#8, 0x34#8, 0x12#8] = .ok (.cz 0x1234#16, []) ∧
    decode [0b11010100#8, 0x34#8, 0x12#8] = .ok (.cnc 0x1234#16, []) ∧
    decode [0b11011100#8, 0x34#8, 0x12#8] = .ok (.cc 0x1234#16, []) ∧
    decode [0b11100100#8, 0x34#8, 0x12#8] = .ok (.cpo 0x1234#16, []) ∧
    decode [0b11101100#8, 0x34#8, 0x12#8] = .ok (.cpe 0x1234#16, []) ∧
    decode [0b11110100#8, 0x34#8, 0x12#8] = .ok (.cp 0x1234#16, []) ∧
    decode [0b11111100#8, 0x34#8, 0x12#8] = .ok (.cm 0x1234#16, []) ∧
    decode [0b11110111#8] = .ok (.rst 6, []) := by decide

/-- RET and COND_RET `11 ccc 000` (R339 to R347). -/
theorem test_decode_returns :
    decode [0b11001001#8] = .ok (.ret, []) ∧
    decode [0b11000000#8] = .ok (.rnz, []) ∧
    decode [0b11001000#8] = .ok (.rz, []) ∧
    decode [0b11010000#8] = .ok (.rnc, []) ∧
    decode [0b11011000#8] = .ok (.rc, []) ∧
    decode [0b11100000#8] = .ok (.rpo, []) ∧
    decode [0b11101000#8] = .ok (.rpe, []) ∧
    decode [0b11110000#8] = .ok (.rp, []) ∧
    decode [0b11111000#8] = .ok (.rm, []) := by decide

/-- Machine control and I/O (R370 to R377). -/
theorem test_decode_control :
    decode [0b00000000#8] = .ok (.nop, []) ∧
    decode [0b01110110#8] = .ok (.hlt, []) ∧
    decode [0b11111011#8] = .ok (.ei, []) ∧
    decode [0b11110011#8] = .ok (.di, []) ∧
    decode [0b11011011#8, 0x5A#8] = .ok (.inp 0x5A#8, []) ∧
    decode [0b11010011#8, 0x5A#8] = .ok (.out 0x5A#8, []) := by decide

/-- The twelve bytes without a row are rejected by name (R121). -/
theorem test_decode_absent : ∀ op ∈ absentBytes, decode [op, 0#8, 0#8] = .error (.absentOpcode op) := by decide

/-- A list that ends inside an instruction is rejected by name. -/
theorem test_decode_too_few : decode [0xC3#8, 0x34#8] = .error .tooFewBytes := by decide

/-- The table's numbering: the second byte of LXI H,0x2345 is bits 15 to 8 (R117 to R119). -/
theorem test_decodeTableWord : decodeTableWord 24 0x234521 = some (.lxi .hl 0x2345#16) := by decide

/-- An instruction placed at the fetch address is the one the next step runs. -/
theorem test_withFetchWord :
    stepView (State.reset.withFetchWord 8 0x2F) =
      some (view (((State.reset.load 0#16 [0x2F#8]).setReg .a 0xFF#8).setPc 1#16) 4) := by decide

/-! ### The vectors of 95_test_vectors.md -/

/-- V1 of 95_test_vectors.md. -/
theorem test_add_b :
    let s := ((((State.reset.load 0x0000#16 [0x80#8]).setPc 0x0000#16).setReg .a 0xFF#8).setReg .b 0x01#8)
    stepView s = some (view ((((((s.setReg .a 0x00#8).setFlag .z true).setFlag .ac true).setFlag .p true).setFlag .cy true).setPc 0x0001#16) 4) := by decide

/-- V3 of 95_test_vectors.md. -/
theorem test_add_m :
    let s := ((((((State.reset.load 0x0000#16 [0x86#8]).setPc 0x0000#16).setReg .a 0x0F#8).setReg .h 0x20#8).setReg .l 0x00#8).write 0x2000#16 0x01#8)
    stepView s = some (view (((s.setReg .a 0x10#8).setFlag .ac true).setPc 0x0001#16) 7) := by decide

/-- V4 of 95_test_vectors.md. -/
theorem test_adi_0x10 :
    let s := (((State.reset.load 0x0000#16 [0xC6#8, 0x10#8]).setPc 0x0000#16).setReg .a 0x7F#8)
    stepView s = some (view (((s.setReg .a 0x8F#8).setFlag .s true).setPc 0x0002#16) 7) := by decide

/-- V5 of 95_test_vectors.md. -/
theorem test_adc_c :
    let s := (((((State.reset.load 0x0000#16 [0x89#8]).setPc 0x0000#16).setReg .a 0x7F#8).setReg .c 0x00#8).setFlag .cy true)
    stepView s = some (view (((((s.setReg .a 0x80#8).setFlag .s true).setFlag .ac true).setFlag .cy false).setPc 0x0001#16) 4) := by decide

/-- V6 of 95_test_vectors.md. -/
theorem test_adc_c_v6 :
    let s := (((((State.reset.load 0x0000#16 [0x89#8]).setPc 0x0000#16).setReg .a 0xFF#8).setReg .c 0xFF#8).setFlag .cy true)
    stepView s = some (view ((((s.setFlag .s true).setFlag .ac true).setFlag .p true).setPc 0x0001#16) 4) := by decide

/-- V7 of 95_test_vectors.md. -/
theorem test_aci_0x00 :
    let s := ((((State.reset.load 0x0000#16 [0xCE#8, 0x00#8]).setPc 0x0000#16).setReg .a 0xFF#8).setFlag .cy true)
    stepView s = some (view (((((s.setReg .a 0x00#8).setFlag .z true).setFlag .ac true).setFlag .p true).setPc 0x0002#16) 7) := by decide

/-- V10 of 95_test_vectors.md. -/
theorem test_sub_b :
    let s := ((((State.reset.load 0x0000#16 [0x90#8]).setPc 0x0000#16).setReg .a 0x00#8).setReg .b 0x01#8)
    stepView s = some (view ((((((s.setReg .a 0xFF#8).setFlag .s true).setFlag .ac true).setFlag .p true).setFlag .cy true).setPc 0x0001#16) 4) := by decide

/-- V12 of 95_test_vectors.md. -/
theorem test_sui_0x01 :
    let s := (((State.reset.load 0x0000#16 [0xD6#8, 0x01#8]).setPc 0x0000#16).setReg .a 0x80#8)
    stepView s = some (view (((s.setReg .a 0x7F#8).setFlag .ac true).setPc 0x0002#16) 7) := by decide

/-- V13 of 95_test_vectors.md. -/
theorem test_sbb_d :
    let s := (((((State.reset.load 0x0000#16 [0x9A#8]).setPc 0x0000#16).setReg .a 0x05#8).setReg .d 0x05#8).setFlag .cy true)
    stepView s = some (view (((((s.setReg .a 0xFF#8).setFlag .s true).setFlag .ac true).setFlag .p true).setPc 0x0001#16) 4) := by decide

/-- V14 of 95_test_vectors.md. -/
theorem test_sbb_m :
    let s := (((((((State.reset.load 0x0000#16 [0x9E#8]).setPc 0x0000#16).setReg .a 0x10#8).setReg .h 0x20#8).setReg .l 0x10#8).setFlag .cy true).write 0x2010#16 0xFF#8)
    stepView s = some (view ((s.setFlag .ac true).setPc 0x0001#16) 7) := by decide

/-- V15 of 95_test_vectors.md. -/
theorem test_sbi_0xff :
    let s := ((((State.reset.load 0x0000#16 [0xDE#8, 0xFF#8]).setPc 0x0000#16).setReg .a 0x00#8).setFlag .cy true)
    stepView s = some (view ((((s.setFlag .z true).setFlag .ac true).setFlag .p true).setPc 0x0002#16) 7) := by decide

/-- V16 of 95_test_vectors.md. -/
theorem test_cmp_e :
    let s := ((((State.reset.load 0x0000#16 [0xBB#8]).setPc 0x0000#16).setReg .a 0x0A#8).setReg .e 0x05#8)
    stepView s = some (view ((s.setFlag .p true).setPc 0x0001#16) 4) := by decide

/-- V17 of 95_test_vectors.md. -/
theorem test_cmp_e_v17 :
    let s := ((((State.reset.load 0x0000#16 [0xBB#8]).setPc 0x0000#16).setReg .a 0x02#8).setReg .e 0x05#8)
    stepView s = some (view ((((s.setFlag .s true).setFlag .ac true).setFlag .cy true).setPc 0x0001#16) 4) := by decide

/-- V19 of 95_test_vectors.md. -/
theorem test_cpi_0x40 :
    let s := (((State.reset.load 0x0000#16 [0xFE#8, 0x40#8]).setPc 0x0000#16).setReg .a 0x40#8)
    stepView s = some (view (((s.setFlag .z true).setFlag .p true).setPc 0x0002#16) 7) := by decide

/-- V20 of 95_test_vectors.md. -/
theorem test_inr_a :
    let s := ((((State.reset.load 0x0000#16 [0x3C#8]).setPc 0x0000#16).setReg .a 0xFF#8).setFlag .cy true)
    stepView s = some (view (((((s.setReg .a 0x00#8).setFlag .z true).setFlag .ac true).setFlag .p true).setPc 0x0001#16) 5) := by decide

/-- V22 of 95_test_vectors.md. -/
theorem test_inr_m :
    let s := (((((State.reset.load 0x0000#16 [0x34#8]).setPc 0x0000#16).setReg .h 0x20#8).setReg .l 0x00#8).write 0x2000#16 0x7F#8)
    stepView s = some (view ((((s.setFlag .s true).setFlag .ac true).setPc 0x0001#16).write 0x2000#16 0x80#8) 10) := by decide

/-- V27 of 95_test_vectors.md. -/
theorem test_dcr_m :
    let s := (((((State.reset.load 0x0000#16 [0x35#8]).setPc 0x0000#16).setReg .h 0x20#8).setReg .l 0x00#8).write 0x2000#16 0x10#8)
    stepView s = some (view ((((s.setFlag .ac true).setFlag .p true).setPc 0x0001#16).write 0x2000#16 0x0F#8) 10) := by decide

/-- V29 of 95_test_vectors.md. -/
theorem test_daa :
    let s := (((State.reset.load 0x0000#16 [0x27#8]).setPc 0x0000#16).setReg .a 0xFA#8)
    stepView s = some (view (((((s.setReg .a 0x60#8).setFlag .ac true).setFlag .p true).setFlag .cy true).setPc 0x0001#16) 4) := by decide

/-- V31 of 95_test_vectors.md. -/
theorem test_daa_v31 :
    let s := (((((State.reset.load 0x0000#16 [0x27#8]).setPc 0x0000#16).setReg .a 0x02#8).setFlag .ac true).setFlag .cy true)
    stepView s = some (view (((s.setReg .a 0x68#8).setFlag .ac false).setPc 0x0001#16) 4) := by decide

/-- V42 of 95_test_vectors.md. -/
theorem test_ani_0x0f :
    let s := (((((State.reset.load 0x0000#16 [0xE6#8, 0x0F#8]).setPc 0x0000#16).setReg .a 0xF0#8).setFlag .cy true).setFlag .ac true)
    stepView s = some (view ((((((s.setReg .a 0x00#8).setFlag .z true).setFlag .ac false).setFlag .p true).setFlag .cy false).setPc 0x0002#16) 7) := by decide

/-- V43 of 95_test_vectors.md. -/
theorem test_ana_m :
    let s := ((((((State.reset.load 0x0000#16 [0xA6#8]).setPc 0x0000#16).setReg .a 0xFF#8).setReg .h 0x20#8).setReg .l 0x00#8).write 0x2000#16 0x81#8)
    stepView s = some (view ((((s.setReg .a 0x81#8).setFlag .s true).setFlag .p true).setPc 0x0001#16) 7) := by decide

/-- V44 of 95_test_vectors.md. -/
theorem test_xra_a :
    let s := ((((((State.reset.load 0x0000#16 [0xAF#8]).setPc 0x0000#16).setReg .a 0x5A#8).setFlag .cy true).setFlag .ac true).setFlag .s true)
    stepView s = some (view (((((((s.setReg .a 0x00#8).setFlag .s false).setFlag .z true).setFlag .ac false).setFlag .p true).setFlag .cy false).setPc 0x0001#16) 4) := by decide

/-- V45 of 95_test_vectors.md. -/
theorem test_xra_c :
    let s := ((((State.reset.load 0x0000#16 [0xA9#8]).setPc 0x0000#16).setReg .a 0x0F#8).setReg .c 0xF0#8)
    stepView s = some (view ((((s.setReg .a 0xFF#8).setFlag .s true).setFlag .p true).setPc 0x0001#16) 4) := by decide

/-- V46 of 95_test_vectors.md. -/
theorem test_xri_0x01 :
    let s := ((((State.reset.load 0x0000#16 [0xEE#8, 0x01#8]).setPc 0x0000#16).setReg .a 0x01#8).setFlag .cy true)
    stepView s = some (view (((((s.setReg .a 0x00#8).setFlag .z true).setFlag .p true).setFlag .cy false).setPc 0x0002#16) 7) := by decide

/-- V47 of 95_test_vectors.md. -/
theorem test_ora_l :
    let s := ((((((State.reset.load 0x0000#16 [0xB5#8]).setPc 0x0000#16).setReg .a 0x00#8).setReg .l 0x00#8).setFlag .cy true).setFlag .ac true)
    stepView s = some (view (((((s.setFlag .z true).setFlag .ac false).setFlag .p true).setFlag .cy false).setPc 0x0001#16) 4) := by decide

/-- V48 of 95_test_vectors.md. -/
theorem test_ora_m :
    let s := ((((((State.reset.load 0x0000#16 [0xB6#8]).setPc 0x0000#16).setReg .a 0x01#8).setReg .h 0x20#8).setReg .l 0x00#8).write 0x2000#16 0x02#8)
    stepView s = some (view (((s.setReg .a 0x03#8).setFlag .p true).setPc 0x0001#16) 7) := by decide

/-- V49 of 95_test_vectors.md. -/
theorem test_ori_0x80 :
    let s := (((State.reset.load 0x0000#16 [0xF6#8, 0x80#8]).setPc 0x0000#16).setReg .a 0x01#8)
    stepView s = some (view ((((s.setReg .a 0x81#8).setFlag .s true).setFlag .p true).setPc 0x0002#16) 7) := by decide

/-- V50 of 95_test_vectors.md. -/
theorem test_cma :
    let s := (((State.reset.load 0x0000#16 [0x2F#8]).setPc 0x0000#16).setReg .a 0x51#8)
    stepView s = some (view ((s.setReg .a 0xAE#8).setPc 0x0001#16) 4) := by decide

/-- V51 of 95_test_vectors.md. -/
theorem test_cmc :
    let s := (((State.reset.load 0x0000#16 [0x3F#8]).setPc 0x0000#16).setFlag .cy true)
    stepView s = some (view ((s.setFlag .cy false).setPc 0x0001#16) 4) := by decide

/-- V52 of 95_test_vectors.md. -/
theorem test_cmc_v52 :
    let s := ((State.reset.load 0x0000#16 [0x3F#8]).setPc 0x0000#16)
    stepView s = some (view ((s.setFlag .cy true).setPc 0x0001#16) 4) := by decide

/-- V53 of 95_test_vectors.md. -/
theorem test_stc :
    let s := ((State.reset.load 0x0000#16 [0x37#8]).setPc 0x0000#16)
    stepView s = some (view ((s.setFlag .cy true).setPc 0x0001#16) 4) := by decide

/-- V54 of 95_test_vectors.md. -/
theorem test_rlc :
    let s := (((State.reset.load 0x0000#16 [0x07#8]).setPc 0x0000#16).setReg .a 0x80#8)
    stepView s = some (view (((s.setReg .a 0x01#8).setFlag .cy true).setPc 0x0001#16) 4) := by decide

/-- V55 of 95_test_vectors.md. -/
theorem test_rlc_v55 :
    let s := ((((State.reset.load 0x0000#16 [0x07#8]).setPc 0x0000#16).setReg .a 0x12#8).setFlag .cy true)
    stepView s = some (view (((s.setReg .a 0x24#8).setFlag .cy false).setPc 0x0001#16) 4) := by decide

/-- V56 of 95_test_vectors.md. -/
theorem test_rrc :
    let s := (((State.reset.load 0x0000#16 [0x0F#8]).setPc 0x0000#16).setReg .a 0x01#8)
    stepView s = some (view (((s.setReg .a 0x80#8).setFlag .cy true).setPc 0x0001#16) 4) := by decide

/-- V57 of 95_test_vectors.md. -/
theorem test_rrc_v57 :
    let s := ((((State.reset.load 0x0000#16 [0x0F#8]).setPc 0x0000#16).setReg .a 0xF2#8).setFlag .cy true)
    stepView s = some (view (((s.setReg .a 0x79#8).setFlag .cy false).setPc 0x0001#16) 4) := by decide

/-- V58 of 95_test_vectors.md. -/
theorem test_ral :
    let s := (((State.reset.load 0x0000#16 [0x17#8]).setPc 0x0000#16).setReg .a 0x80#8)
    stepView s = some (view (((s.setReg .a 0x00#8).setFlag .cy true).setPc 0x0001#16) 4) := by decide

/-- V59 of 95_test_vectors.md. -/
theorem test_ral_v59 :
    let s := ((((State.reset.load 0x0000#16 [0x17#8]).setPc 0x0000#16).setReg .a 0x00#8).setFlag .cy true)
    stepView s = some (view (((s.setReg .a 0x01#8).setFlag .cy false).setPc 0x0001#16) 4) := by decide

/-- V60 of 95_test_vectors.md. -/
theorem test_rar :
    let s := ((((State.reset.load 0x0000#16 [0x1F#8]).setPc 0x0000#16).setReg .a 0x01#8).setFlag .cy true)
    stepView s = some (view ((s.setReg .a 0x80#8).setPc 0x0001#16) 4) := by decide

/-- V61 of 95_test_vectors.md. -/
theorem test_rar_v61 :
    let s := (((State.reset.load 0x0000#16 [0x1F#8]).setPc 0x0000#16).setReg .a 0x02#8)
    stepView s = some (view ((s.setReg .a 0x01#8).setPc 0x0001#16) 4) := by decide

/-- V70 of 95_test_vectors.md. -/
theorem test_mov_b_c :
    let s := (((State.reset.load 0x0000#16 [0x41#8]).setPc 0x0000#16).setReg .c 0x5A#8)
    stepView s = some (view ((s.setReg .b 0x5A#8).setPc 0x0001#16) 5) := by decide

/-- V75 of 95_test_vectors.md. -/
theorem test_mov_l_m :
    let s := (((((State.reset.load 0x0000#16 [0x6E#8]).setPc 0x0000#16).setReg .h 0x20#8).setReg .l 0x05#8).write 0x2005#16 0x77#8)
    stepView s = some (view ((s.setReg .l 0x77#8).setPc 0x0001#16) 7) := by decide

/-- V77 of 95_test_vectors.md. -/
theorem test_mvi_m_0x00 :
    let s := (((((State.reset.load 0x0000#16 [0x36#8, 0x00#8]).setPc 0x0000#16).setReg .h 0x20#8).setReg .l 0x00#8).write 0x2000#16 0xAA#8)
    stepView s = some (view ((s.setPc 0x0002#16).write 0x2000#16 0x00#8) 10) := by decide

/-- V78 of 95_test_vectors.md. -/
theorem test_lxi_h_0x2345 :
    let s := ((State.reset.load 0x0000#16 [0x21#8, 0x45#8, 0x23#8]).setPc 0x0000#16)
    stepView s = some (view (((s.setReg .h 0x23#8).setReg .l 0x45#8).setPc 0x0003#16) 10) := by decide

/-- V79 of 95_test_vectors.md. -/
theorem test_lxi_sp_0x2400 :
    let s := ((State.reset.load 0x0000#16 [0x31#8, 0x00#8, 0x24#8]).setPc 0x0000#16)
    stepView s = some (view ((s.setPc 0x0003#16).setSp 0x2400#16) 10) := by decide

/-- V80 of 95_test_vectors.md. -/
theorem test_lda_0x2000 :
    let s := (((State.reset.load 0x0000#16 [0x3A#8, 0x00#8, 0x20#8]).setPc 0x0000#16).write 0x2000#16 0x42#8)
    stepView s = some (view ((s.setReg .a 0x42#8).setPc 0x0003#16) 13) := by decide

/-- V81 of 95_test_vectors.md. -/
theorem test_sta_0x2001 :
    let s := (((State.reset.load 0x0000#16 [0x32#8, 0x01#8, 0x20#8]).setPc 0x0000#16).setReg .a 0x99#8)
    stepView s = some (view ((s.setPc 0x0003#16).write 0x2001#16 0x99#8) 13) := by decide

/-- V82 of 95_test_vectors.md. -/
theorem test_lhld_0x2000 :
    let s := ((((State.reset.load 0x0000#16 [0x2A#8, 0x00#8, 0x20#8]).setPc 0x0000#16).write 0x2000#16 0x34#8).write 0x2001#16 0x12#8)
    stepView s = some (view (((s.setReg .h 0x12#8).setReg .l 0x34#8).setPc 0x0003#16) 16) := by decide

/-- V84 of 95_test_vectors.md. -/
theorem test_shld_0xffff :
    let s := ((((State.reset.load 0x0000#16 [0x22#8, 0xFF#8, 0xFF#8]).setPc 0x0000#16).setReg .h 0xAB#8).setReg .l 0xCD#8)
    stepView s = some (view (((s.setPc 0x0003#16).write 0x0000#16 0xAB#8).write 0xFFFF#16 0xCD#8) 16) := by decide

/-- V85 of 95_test_vectors.md. -/
theorem test_ldax_b :
    let s := (((((State.reset.load 0x0000#16 [0x0A#8]).setPc 0x0000#16).setReg .b 0x20#8).setReg .c 0x10#8).write 0x2010#16 0x66#8)
    stepView s = some (view ((s.setReg .a 0x66#8).setPc 0x0001#16) 7) := by decide

/-- V86 of 95_test_vectors.md. -/
theorem test_ldax_d :
    let s := (((((State.reset.load 0x0000#16 [0x1A#8]).setPc 0x0000#16).setReg .d 0x20#8).setReg .e 0x11#8).write 0x2011#16 0x77#8)
    stepView s = some (view ((s.setReg .a 0x77#8).setPc 0x0001#16) 7) := by decide

/-- V87 of 95_test_vectors.md. -/
theorem test_stax_b :
    let s := (((((State.reset.load 0x0000#16 [0x02#8]).setPc 0x0000#16).setReg .a 0x5C#8).setReg .b 0x20#8).setReg .c 0x12#8)
    stepView s = some (view ((s.setPc 0x0001#16).write 0x2012#16 0x5C#8) 7) := by decide

/-- V88 of 95_test_vectors.md. -/
theorem test_stax_d :
    let s := (((((State.reset.load 0x0000#16 [0x12#8]).setPc 0x0000#16).setReg .a 0x5D#8).setReg .d 0x20#8).setReg .e 0x13#8)
    stepView s = some (view ((s.setPc 0x0001#16).write 0x2013#16 0x5D#8) 7) := by decide

/-- V89 of 95_test_vectors.md. -/
theorem test_xchg :
    let s := ((((((State.reset.load 0x0000#16 [0xEB#8]).setPc 0x0000#16).setReg .d 0x12#8).setReg .e 0x34#8).setReg .h 0x56#8).setReg .l 0x78#8)
    stepView s = some (view (((((s.setReg .d 0x56#8).setReg .e 0x78#8).setReg .h 0x12#8).setReg .l 0x34#8).setPc 0x0001#16) 4) := by decide

/-- V101 of 95_test_vectors.md. -/
theorem test_inx_d :
    let s := (((((State.reset.load 0x0000#16 [0x13#8]).setPc 0x0000#16).setReg .d 0xFF#8).setReg .e 0xFF#8).setFlag .z false)
    stepView s = some (view (((s.setReg .d 0x00#8).setReg .e 0x00#8).setPc 0x0001#16) 5) := by decide

/-- V102 of 95_test_vectors.md. -/
theorem test_inx_sp :
    let s := (((State.reset.load 0x0000#16 [0x33#8]).setPc 0x0000#16).setSp 0xFFFF#16)
    stepView s = some (view ((s.setPc 0x0001#16).setSp 0x0000#16) 5) := by decide

/-- V103 of 95_test_vectors.md. -/
theorem test_dcx_h :
    let s := ((((State.reset.load 0x0000#16 [0x2B#8]).setPc 0x0000#16).setReg .h 0x00#8).setReg .l 0x00#8)
    stepView s = some (view (((s.setReg .h 0xFF#8).setReg .l 0xFF#8).setPc 0x0001#16) 5) := by decide

/-- V104 of 95_test_vectors.md. -/
theorem test_dcx_sp :
    let s := (((State.reset.load 0x0000#16 [0x3B#8]).setPc 0x0000#16).setSp 0x0001#16)
    stepView s = some (view ((s.setPc 0x0001#16).setSp 0x0000#16) 5) := by decide

/-- V106 of 95_test_vectors.md. -/
theorem test_dad_h :
    let s := ((((State.reset.load 0x0000#16 [0x29#8]).setPc 0x0000#16).setReg .h 0x80#8).setReg .l 0x00#8)
    stepView s = some (view (((s.setReg .h 0x00#8).setFlag .cy true).setPc 0x0001#16) 10) := by decide

/-- V108 of 95_test_vectors.md. -/
theorem test_dad_d :
    let s := ((((((((State.reset.load 0x0000#16 [0x19#8]).setPc 0x0000#16).setReg .d 0x00#8).setReg .e 0x01#8).setReg .h 0xFF#8).setReg .l 0xFF#8).setFlag .z false).setFlag .s true)
    stepView s = some (view ((((s.setReg .h 0x00#8).setReg .l 0x00#8).setFlag .cy true).setPc 0x0001#16) 10) := by decide

/-- V121 of 95_test_vectors.md. -/
theorem test_push_psw :
    let s := (((((((State.reset.load 0x0000#16 [0xF5#8]).setPc 0x0000#16).setReg .a 0xAA#8).setFlag .z true).setFlag .p true).setFlag .cy true).setSp 0x2400#16)
    stepView s = some (view ((((s.setPc 0x0001#16).setSp 0x23FE#16).write 0x23FE#16 0x47#8).write 0x23FF#16 0xAA#8) 11) := by decide

/-- V122 of 95_test_vectors.md. -/
theorem test_push_h :
    let s := ((((State.reset.load 0x0000#16 [0xE5#8]).setPc 0x0000#16).setReg .h 0xBE#8).setReg .l 0xEF#8)
    stepView s = some (view ((((s.setPc 0x0001#16).setSp 0xFFFE#16).write 0xFFFE#16 0xEF#8).write 0xFFFF#16 0xBE#8) 11) := by decide

/-- V124 of 95_test_vectors.md. -/
theorem test_pop_psw :
    let s := (((((State.reset.load 0x0000#16 [0xF1#8]).setPc 0x0000#16).setSp 0x23FE#16).write 0x23FE#16 0xFF#8).write 0x23FF#16 0x80#8)
    stepView s = some (view ((((((((s.setReg .a 0x80#8).setFlag .s true).setFlag .z true).setFlag .ac true).setFlag .p true).setFlag .cy true).setPc 0x0001#16).setSp 0x2400#16) 10) := by decide

/-- V126 of 95_test_vectors.md. -/
theorem test_pop_b :
    let s := (((((State.reset.load 0x0000#16 [0xC1#8]).setPc 0x0000#16).setSp 0xFFFF#16).write 0xFFFF#16 0x01#8).write 0x0000#16 0xC1#8)
    stepView s = some (view ((((s.setReg .b 0xC1#8).setReg .c 0x01#8).setPc 0x0001#16).setSp 0x0001#16) 10) := by decide

/-- V127 of 95_test_vectors.md. -/
theorem test_xthl :
    let s := (((((((State.reset.load 0x0000#16 [0xE3#8]).setPc 0x0000#16).setReg .h 0x0B#8).setReg .l 0x3C#8).setSp 0x10AD#16).write 0x10AD#16 0xF0#8).write 0x10AE#16 0x0D#8)
    stepView s = some (view (((((s.setReg .h 0x0D#8).setReg .l 0xF0#8).setPc 0x0001#16).write 0x10AD#16 0x3C#8).write 0x10AE#16 0x0B#8) 18) := by decide

/-- V128 of 95_test_vectors.md. -/
theorem test_sphl :
    let s := ((((State.reset.load 0x0000#16 [0xF9#8]).setPc 0x0000#16).setReg .h 0x50#8).setReg .l 0x6C#8)
    stepView s = some (view ((s.setPc 0x0001#16).setSp 0x506C#16) 5) := by decide

/-- V140 of 95_test_vectors.md. -/
theorem test_jmp_0x1234 :
    let s := ((State.reset.load 0x0100#16 [0xC3#8, 0x34#8, 0x12#8]).setPc 0x0100#16)
    stepView s = some (view (s.setPc 0x1234#16) 10) := by decide

/-- V141 of 95_test_vectors.md. -/
theorem test_jnz_0x0200 :
    let s := (((State.reset.load 0x0100#16 [0xC2#8, 0x00#8, 0x02#8]).setPc 0x0100#16).setFlag .z false)
    stepView s = some (view (s.setPc 0x0200#16) 10) := by decide

/-- V142 of 95_test_vectors.md. -/
theorem test_jnz_0x0200_v142 :
    let s := (((State.reset.load 0x0100#16 [0xC2#8, 0x00#8, 0x02#8]).setPc 0x0100#16).setFlag .z true)
    stepView s = some (view (s.setPc 0x0103#16) 10) := by decide

/-- V143 of 95_test_vectors.md. -/
theorem test_jc_0x0200 :
    let s := (((State.reset.load 0x0100#16 [0xDA#8, 0x00#8, 0x02#8]).setPc 0x0100#16).setFlag .cy true)
    stepView s = some (view (s.setPc 0x0200#16) 10) := by decide

/-- V144 of 95_test_vectors.md. -/
theorem test_jpo_0x0200 :
    let s := (((State.reset.load 0x0100#16 [0xE2#8, 0x00#8, 0x02#8]).setPc 0x0100#16).setFlag .p false)
    stepView s = some (view (s.setPc 0x0200#16) 10) := by decide

/-- V145 of 95_test_vectors.md. -/
theorem test_jpe_0x0200 :
    let s := (((State.reset.load 0x0100#16 [0xEA#8, 0x00#8, 0x02#8]).setPc 0x0100#16).setFlag .p false)
    stepView s = some (view (s.setPc 0x0103#16) 10) := by decide

/-- V146 of 95_test_vectors.md. -/
theorem test_jm_0x0200 :
    let s := (((State.reset.load 0x0100#16 [0xFA#8, 0x00#8, 0x02#8]).setPc 0x0100#16).setFlag .s true)
    stepView s = some (view (s.setPc 0x0200#16) 10) := by decide

/-- V147 of 95_test_vectors.md. -/
theorem test_jp_0x0200 :
    let s := (((State.reset.load 0x0100#16 [0xF2#8, 0x00#8, 0x02#8]).setPc 0x0100#16).setFlag .s true)
    stepView s = some (view (s.setPc 0x0103#16) 10) := by decide

/-- V148 of 95_test_vectors.md. -/
theorem test_call_0x0300 :
    let s := (((State.reset.load 0x0100#16 [0xCD#8, 0x00#8, 0x03#8]).setPc 0x0100#16).setSp 0x2400#16)
    stepView s = some (view ((((s.setPc 0x0300#16).setSp 0x23FE#16).write 0x23FE#16 0x03#8).write 0x23FF#16 0x01#8) 17) := by decide

/-- V149 of 95_test_vectors.md. -/
theorem test_cz_0x0300 :
    let s := ((((State.reset.load 0x0100#16 [0xCC#8, 0x00#8, 0x03#8]).setPc 0x0100#16).setFlag .z true).setSp 0x2400#16)
    stepView s = some (view ((((s.setPc 0x0300#16).setSp 0x23FE#16).write 0x23FE#16 0x03#8).write 0x23FF#16 0x01#8) 17) := by decide

/-- V150 of 95_test_vectors.md. -/
theorem test_cz_0x0300_v150 :
    let s := ((((State.reset.load 0x0100#16 [0xCC#8, 0x00#8, 0x03#8]).setPc 0x0100#16).setFlag .z false).setSp 0x2400#16)
    stepView s = some (view (s.setPc 0x0103#16) 11) := by decide

/-- V151 of 95_test_vectors.md. -/
theorem test_cnc_0x0300 :
    let s := ((((State.reset.load 0x0100#16 [0xD4#8, 0x00#8, 0x03#8]).setPc 0x0100#16).setFlag .cy false).setSp 0x2400#16)
    stepView s = some (view ((((s.setPc 0x0300#16).setSp 0x23FE#16).write 0x23FE#16 0x03#8).write 0x23FF#16 0x01#8) 17) := by decide

/-- V152 of 95_test_vectors.md. -/
theorem test_ret :
    let s := (((((State.reset.load 0x0300#16 [0xC9#8]).setPc 0x0300#16).setSp 0x23FE#16).write 0x23FE#16 0x03#8).write 0x23FF#16 0x01#8)
    stepView s = some (view ((s.setPc 0x0103#16).setSp 0x2400#16) 10) := by decide

/-- V154 of 95_test_vectors.md. -/
theorem test_rnz :
    let s := ((((((State.reset.load 0x0300#16 [0xC0#8]).setPc 0x0300#16).setFlag .z false).setSp 0x23FE#16).write 0x23FE#16 0x03#8).write 0x23FF#16 0x01#8)
    stepView s = some (view ((s.setPc 0x0103#16).setSp 0x2400#16) 11) := by decide

/-- V153 of 95_test_vectors.md. -/
theorem test_rnz_v153 :
    let s := ((((((State.reset.load 0x0300#16 [0xC0#8]).setPc 0x0300#16).setFlag .z true).setSp 0x23FE#16).write 0x23FE#16 0x03#8).write 0x23FF#16 0x01#8)
    stepView s = some (view (s.setPc 0x0301#16) 5) := by decide

/-- V155 of 95_test_vectors.md. -/
theorem test_rm :
    let s := ((((((State.reset.load 0x0300#16 [0xF8#8]).setPc 0x0300#16).setFlag .s true).setSp 0x23FE#16).write 0x23FE#16 0x03#8).write 0x23FF#16 0x01#8)
    stepView s = some (view ((s.setPc 0x0103#16).setSp 0x2400#16) 11) := by decide

/-- V156 of 95_test_vectors.md. -/
theorem test_rst_7 :
    let s := (((State.reset.load 0x0100#16 [0xFF#8]).setPc 0x0100#16).setSp 0x2400#16)
    stepView s = some (view ((((s.setPc 0x0038#16).setSp 0x23FE#16).write 0x23FE#16 0x01#8).write 0x23FF#16 0x01#8) 11) := by decide

/-- V157 of 95_test_vectors.md. -/
theorem test_rst_0 :
    let s := (((State.reset.load 0x0100#16 [0xC7#8]).setPc 0x0100#16).setSp 0x2400#16)
    stepView s = some (view ((((s.setPc 0x0000#16).setSp 0x23FE#16).write 0x23FE#16 0x01#8).write 0x23FF#16 0x01#8) 11) := by decide

/-- V158 of 95_test_vectors.md. -/
theorem test_pchl :
    let s := ((((State.reset.load 0x0100#16 [0xE9#8]).setPc 0x0100#16).setReg .h 0x41#8).setReg .l 0x3E#8)
    stepView s = some (view (s.setPc 0x413E#16) 5) := by decide

/-- V161 of 95_test_vectors.md. -/
theorem test_nop_at_0xffff :
    let s := ((State.reset.load 0xFFFF#16 [0x00#8]).setPc 0xFFFF#16)
    stepView s = some (view (s.setPc 0x0000#16) 4) := by decide

/-- V162 of 95_test_vectors.md. -/
theorem test_mvi_a_0x77_at_0xffff :
    let s := (((State.reset.load 0xFFFF#16 [0x3E#8]).setPc 0xFFFF#16).write 0x0000#16 0x77#8)
    stepView s = some (view ((s.setReg .a 0x77#8).setPc 0x0001#16) 7) := by decide

/-- V170 of 95_test_vectors.md. -/
theorem test_nop :
    let s := (((State.reset.load 0x0100#16 [0x00#8]).setPc 0x0100#16).setFlag .cy true)
    stepView s = some (view (s.setPc 0x0101#16) 4) := by decide

/-- V171 of 95_test_vectors.md. -/
theorem test_hlt :
    let s := ((State.reset.load 0x0100#16 [0x76#8]).setPc 0x0100#16)
    stepView s = some (view ((setHalted (s.setPc 0x0101#16) true)) 7) := by decide

/-- V173 of 95_test_vectors.md. -/
theorem test_ei :
    let s := ((State.reset.load 0x0100#16 [0xFB#8]).setPc 0x0100#16)
    stepView s = some (view ((setInte (s.setPc 0x0101#16) true)) 4) := by decide

/-- V174 of 95_test_vectors.md. -/
theorem test_di :
    let s := ((setInte ((State.reset.load 0x0100#16 [0xF3#8]).setPc 0x0100#16) true))
    stepView s = some (view ((setInte (s.setPc 0x0101#16) false)) 4) := by decide

/-- V176 of 95_test_vectors.md. -/
theorem test_out_0x03 :
    let s := (((State.reset.load 0x0100#16 [0xD3#8, 0x03#8]).setPc 0x0100#16).setReg .a 0x5A#8)
    stepView s = some (view (s.setPc 0x0102#16) 10) := by decide

/-- V11 of 95_test_vectors.md. -/
theorem test_sub_b_silicon :
    let s := ((((silicon.load 0x0000#16 [0x90#8]).setPc 0x0000#16).setReg .a 0x00#8).setReg .b 0x01#8)
    stepView s = some (view (((((s.setReg .a 0xFF#8).setFlag .s true).setFlag .p true).setFlag .cy true).setPc 0x0001#16) 4) := by decide

/-- V24 of 95_test_vectors.md. -/
theorem test_dcr_c_silicon :
    let s := (((silicon.load 0x0000#16 [0x0D#8]).setPc 0x0000#16).setReg .c 0x00#8)
    stepView s = some (view ((((s.setReg .c 0xFF#8).setFlag .s true).setFlag .p true).setPc 0x0001#16) 5) := by decide

/-- V41 of 95_test_vectors.md. -/
theorem test_ana_b_silicon :
    let s := ((((((silicon.load 0x0000#16 [0xA0#8]).setPc 0x0000#16).setReg .a 0xF0#8).setReg .b 0x3C#8).setFlag .cy true).setFlag .ac true)
    stepView s = some (view ((((s.setReg .a 0x30#8).setFlag .p true).setFlag .cy false).setPc 0x0001#16) 4) := by decide

/-! ### The conditional transfers the vectors leave out: taken, and not taken -/

/-- JZ (R323). -/
theorem test_jz :
    stepPc ((at0100 [0xCA#8, 0x00#8, 0x02#8]).setFlag .z true) = some 0x0200#16 ∧
    stepPc ((at0100 [0xCA#8, 0x00#8, 0x02#8]).setFlag .z false) = some 0x0103#16 := by decide

/-- JNC (R324). -/
theorem test_jnc :
    stepPc ((at0100 [0xD2#8, 0x00#8, 0x02#8]).setFlag .cy false) = some 0x0200#16 ∧
    stepPc ((at0100 [0xD2#8, 0x00#8, 0x02#8]).setFlag .cy true) = some 0x0103#16 := by decide

/-- CNZ (R331): the return address 0x0103 is pushed only when the call is made. -/
theorem test_cnz :
    stepStack ((at0100 [0xC4#8, 0x00#8, 0x03#8]).setFlag .z false) =
      some (0x0300#16, 0x23FE#16, 0x03#8, 0x01#8) ∧
    stepStack ((at0100 [0xC4#8, 0x00#8, 0x03#8]).setFlag .z true) =
      some (0x0103#16, 0x2400#16, 0x00#8, 0x00#8) := by decide

/-- CC (R334): the return address 0x0103 is pushed only when the call is made. -/
theorem test_cc :
    stepStack ((at0100 [0xDC#8, 0x00#8, 0x03#8]).setFlag .cy true) =
      some (0x0300#16, 0x23FE#16, 0x03#8, 0x01#8) ∧
    stepStack ((at0100 [0xDC#8, 0x00#8, 0x03#8]).setFlag .cy false) =
      some (0x0103#16, 0x2400#16, 0x00#8, 0x00#8) := by decide

/-- CPO (R335): the return address 0x0103 is pushed only when the call is made. -/
theorem test_cpo :
    stepStack ((at0100 [0xE4#8, 0x00#8, 0x03#8]).setFlag .p false) =
      some (0x0300#16, 0x23FE#16, 0x03#8, 0x01#8) ∧
    stepStack ((at0100 [0xE4#8, 0x00#8, 0x03#8]).setFlag .p true) =
      some (0x0103#16, 0x2400#16, 0x00#8, 0x00#8) := by decide

/-- CPE (R336): the return address 0x0103 is pushed only when the call is made. -/
theorem test_cpe :
    stepStack ((at0100 [0xEC#8, 0x00#8, 0x03#8]).setFlag .p true) =
      some (0x0300#16, 0x23FE#16, 0x03#8, 0x01#8) ∧
    stepStack ((at0100 [0xEC#8, 0x00#8, 0x03#8]).setFlag .p false) =
      some (0x0103#16, 0x2400#16, 0x00#8, 0x00#8) := by decide

/-- CP (R337): the return address 0x0103 is pushed only when the call is made. -/
theorem test_cp :
    stepStack ((at0100 [0xF4#8, 0x00#8, 0x03#8]).setFlag .s false) =
      some (0x0300#16, 0x23FE#16, 0x03#8, 0x01#8) ∧
    stepStack ((at0100 [0xF4#8, 0x00#8, 0x03#8]).setFlag .s true) =
      some (0x0103#16, 0x2400#16, 0x00#8, 0x00#8) := by decide

/-- CM (R338): the return address 0x0103 is pushed only when the call is made. -/
theorem test_cm :
    stepStack ((at0100 [0xFC#8, 0x00#8, 0x03#8]).setFlag .s true) =
      some (0x0300#16, 0x23FE#16, 0x03#8, 0x01#8) ∧
    stepStack ((at0100 [0xFC#8, 0x00#8, 0x03#8]).setFlag .s false) =
      some (0x0103#16, 0x2400#16, 0x00#8, 0x00#8) := by decide

/-- RZ (R341): PC is the word 0x1234 at SP, or the next instruction. -/
theorem test_rz :
    stepStack ((at0100 [0xC8#8]).setFlag .z true) = some (0x1234#16, 0x2402#16, 0x00#8, 0x00#8) ∧
    stepStack ((at0100 [0xC8#8]).setFlag .z false) = some (0x0101#16, 0x2400#16, 0x00#8, 0x00#8) :=
  by decide

/-- RNC (R342): PC is the word 0x1234 at SP, or the next instruction. -/
theorem test_rnc :
    stepStack ((at0100 [0xD0#8]).setFlag .cy false) = some (0x1234#16, 0x2402#16, 0x00#8, 0x00#8) ∧
    stepStack ((at0100 [0xD0#8]).setFlag .cy true) = some (0x0101#16, 0x2400#16, 0x00#8, 0x00#8) :=
  by decide

/-- RC (R343): PC is the word 0x1234 at SP, or the next instruction. -/
theorem test_rc :
    stepStack ((at0100 [0xD8#8]).setFlag .cy true) = some (0x1234#16, 0x2402#16, 0x00#8, 0x00#8) ∧
    stepStack ((at0100 [0xD8#8]).setFlag .cy false) = some (0x0101#16, 0x2400#16, 0x00#8, 0x00#8) :=
  by decide

/-- RPO (R344): PC is the word 0x1234 at SP, or the next instruction. -/
theorem test_rpo :
    stepStack ((at0100 [0xE0#8]).setFlag .p false) = some (0x1234#16, 0x2402#16, 0x00#8, 0x00#8) ∧
    stepStack ((at0100 [0xE0#8]).setFlag .p true) = some (0x0101#16, 0x2400#16, 0x00#8, 0x00#8) :=
  by decide

/-- RPE (R345): PC is the word 0x1234 at SP, or the next instruction. -/
theorem test_rpe :
    stepStack ((at0100 [0xE8#8]).setFlag .p true) = some (0x1234#16, 0x2402#16, 0x00#8, 0x00#8) ∧
    stepStack ((at0100 [0xE8#8]).setFlag .p false) = some (0x0101#16, 0x2400#16, 0x00#8, 0x00#8) :=
  by decide

/-- RP (R346): PC is the word 0x1234 at SP, or the next instruction. -/
theorem test_rp :
    stepStack ((at0100 [0xF0#8]).setFlag .s false) = some (0x1234#16, 0x2402#16, 0x00#8, 0x00#8) ∧
    stepStack ((at0100 [0xF0#8]).setFlag .s true) = some (0x0101#16, 0x2400#16, 0x00#8, 0x00#8) :=
  by decide

/-! ### Input, faults, refusals, uninitialised reads, interrupts, the EI shadow -/

/-- V175 of 95_test_vectors.md, with the environment's answer listed; the answer is recorded (R88). -/
theorem test_in :
    (let s := { (State.reset.load 0x0100#16 [0xDB#8, 0x01#8]).setPc 0x0100#16 with
        env := { requests := [], inputs := [0x8F#8, 0x11#8], draws := 0 } }
     match step s with
     | .next t => (t.reg .a, t.pc, t.cycles, t.env.inputs, t.events)
     | .fault _ => (0#8, 0#16, 0, [], [])
     | .refused _ => (0#8, 0#16, 0, [], [])) =
      (0x8F#8, 0x0102#16, 10, [0x11#8], [.inp 0x01#8 0x8F#8]) := by decide

/-- IN with no listed answer loads the free value, whatever it is (R88, log 9). -/
theorem test_in_free :
    (match step ((State.reset.load 0x0100#16 [0xDB#8, 0x01#8]).setPc 0x0100#16) with
     | .next t => t.reg .a = Config.ioDraw 0 ∧ t.env.draws = 1
     | .fault _ => False
     | .refused _ => False) := ⟨rfl, rfl⟩

/-- V180 to V191 of 95_test_vectors.md: every absent byte faults with its byte and its address. -/
theorem test_absent_faults : ∀ op ∈ absentBytes,
    (let s := (((State.reset.load 0x0100#16 [op]).setPc 0x0100#16).setReg .a 0x12#8).setSp 0x2400#16
     stepFault s = some (.unrecognizedOpcode op 0x0100#16
       { s with pc := 0x0101#16, fault := some { kind := .unrecognizedOpcode, op := op, pc := 0x0100#16 } })) := by decide

/-- V200 of 95_test_vectors.md. -/
theorem test_doc_only_mvi :
    (let s := docOnly.load 0x0000#16 [0x3E#8, 0x12#8]
     stepRefusal s = some (.docOnly 0x3E#8 { s with pc := 0x0001#16, refusedMark := true })) := by decide

/-- V201 of 95_test_vectors.md. -/
theorem test_doc_only_jmp :
    (let s := docOnly.load 0x0000#16 [0xC3#8, 0x34#8, 0x12#8]
     stepRefusal s = some (.docOnly 0xC3#8 { s with pc := 0x0001#16, refusedMark := true })) := by decide

/-- V202 of 95_test_vectors.md: A = 0xD0 and B = 0x01 give 0xD1, S and P. -/
theorem test_doc_only_add :
    (let s := ((docOnly.load 0x0000#16 [0x80#8]).setReg .a 0xD0#8).setReg .b 0x01#8
     stepView s = some (view ((((s.setReg .a 0xD1#8).setFlag .s true).setFlag .p true).setPc 0x0001#16) 4)) := by decide

/-- V203 of 95_test_vectors.md. -/
theorem test_undefined_push :
    (let s := unsetMachine.load 0x0000#16 [0xC5#8]
     stepFault s = some (.uninitializedRead 0xC5#8 0x0000#16
       { s with pc := 0x0001#16, fault := some { kind := .uninitializedRead, op := 0xC5#8, pc := 0x0000#16 } })) := by decide

/-- V204 of 95_test_vectors.md, its third step: SP and A have been written, the flags not. -/
theorem test_undefined_push_psw :
    (let s := (((unsetMachine.load 0x0005#16 [0xF5#8]).setPc 0x0005#16).setSp 0x2400#16).setReg .a 0x07#8
     stepFault s = some (.uninitializedRead 0xF5#8 0x0005#16
       { s with pc := 0x0006#16, fault := some { kind := .uninitializedRead, op := 0xF5#8, pc := 0x0005#16 } })) := by decide

/-- V205 of 95_test_vectors.md, its third step. -/
theorem test_undefined_acceptance :
    (let s := requesting (setInte (unsetMachine.setPc 0x0002#16) true) 1
     stepFault s = some (.uninitializedRead 0xCF#8 0x0002#16
       { s with env := { s.env with requests := [] }
                fault := some { kind := .uninitializedRead, op := 0xCF#8, pc := 0x0002#16 } })) := by decide

/-- V206 and V207 of 95_test_vectors.md: the classes after EI and HLT. -/
theorem test_run_classes :
    (setHalted (setInte (withParams { Params.default with irqModel := .none }) true) true).runClass = .finished ∧
    (setHalted (setInte State.reset true) true).runClass = .waiting ∧
    (setHalted State.reset true).runClass = .finished ∧ State.reset.runClass = .running := by decide

/-- V208 of 95_test_vectors.md. -/
theorem test_interrupt_accepted :
    (let s := requesting (setInte ((State.reset.setPc 0x0100#16).setSp 0x2400#16) true) 3
     stepView s = some (view ((((setInte s false).write 0x23FF#16 0x01#8).setSp 0x23FE#16).setPc 0x0018#16) 11)) := by decide

/-- V209 of 95_test_vectors.md, with the byte 0x3F (CMC) at 0x0100. -/
theorem test_interrupt_masked :
    (let s := requesting (((State.reset.load 0x0100#16 [0x3F#8]).setPc 0x0100#16).setSp 0x2400#16) 3
     stepView s = some (view ((s.setFlag .cy true).setPc 0x0101#16) 4)) := by decide

/-- EI sets the shadow, the next instruction clears it, and in between no request is accepted (R374, R453). -/
theorem test_ei_shadow :
    (match step (State.reset.load 0x0000#16 [0xFB#8, 0x3F#8]) with
     | .next t =>
       (match step (requesting t 3) with
        | .next u => (t.eiShadow, u.eiShadow, u.pc, u.flag .cy)
        | .fault _ => (false, true, 0#16, false)
        | .refused _ => (false, true, 0#16, false))
     | .fault _ => (false, true, 0#16, false)
     | .refused _ => (false, true, 0#16, false)) = (true, false, 0x0002#16, true) := by decide

/-- The second step of V172 of 95_test_vectors.md: nothing is fetched; the count is the open parameter. -/
theorem test_halted_idle :
    (match step (setHalted (State.reset.setPc 0x0101#16) true) with
     | .next t => t.pc = 0x0101#16 ∧ t.halted = true ∧ t.cycles = Config.haltIdleCycles
     | .fault _ => False
     | .refused _ => False) := ⟨rfl, rfl, rfl⟩

/-- A request wakes a halted machine: PC already past the HLT is pushed (R371, R411). -/
theorem test_halted_wakes :
    (let s := requesting (setHalted (setInte ((State.reset.setPc 0x0101#16).setSp 0x2400#16) true) true) 7
     stepStack s = some (0x0038#16, 0x23FE#16, 0x01#8, 0x01#8)) := by decide

/-- V211 of 95_test_vectors.md. -/
theorem test_cpi_silicon :
    (let s := (silicon.load 0x0000#16 [0xFE#8, 0x3E#8]).setReg .a 0x3E#8
     stepView s = some (view ((((s.setFlag .z true).setFlag .ac true).setFlag .p true).setPc 0x0002#16) 7)) := by decide

/-! ### Witnesses: for each obligation with hypotheses, a state and operands that meet them -/

/-- CMA at 0x0100, ready to run. -/
def ready : State := at0100 [0x2F#8]

/-- What `ready` becomes. -/
def readyNext : State := ((ready.setReg .a 0xFF#8).setPc 0x0101#16).report 4

theorem ready_steps : step ready = .next readyNext := by rfl

theorem witness_DecodeEncodeRoundTrip : (Instr.mov .m (.reg .a)).wellFormed = true ∧
    (Instr.rst 7).wellFormed = true ∧ (Instr.lxi .sp 0xFFFF#16).wellFormed = true := by decide

theorem witness_DecodedBytesAreTheEncoding :
    decode [0x21#8, 0x45#8, 0x23#8, 0x08#8] = .ok (.lxi .hl 0x2345#16, [0x08#8]) := by decide

theorem witness_ExactlyTwelveOpcodesAreAbsent : 0x00#8 ∉ absentBytes ∧ 0xFF#8 ∉ absentBytes ∧ 0x08#8 ∈ absentBytes ∧
    0xFD#8 ∈ absentBytes := by decide

theorem witness_StepRunsTheDecodedInstruction :
    live ready = true ∧ interruptedNow ready = false ∧ ready.halted = false ∧
    decode [ready.read ready.pc, ready.read (ready.pc + 1#16), ready.read (ready.pc + 2#16)] =
      .ok (.cma, [0x00#8, 0x00#8]) ∧
    ready.params.admitGk = .all ∧ (∀ l, l ∈ readsOf ready .cma → l ∉ ready.unset) := by decide

/-- The other choices: `doc_only` with a row of the document, and an undefined machine at a NOP. -/
theorem witness_StepRunsTheDecodedInstruction_parameters :
    docOnly.params.admitGk = .docOnly ∧ documented .nop = true ∧
    (∀ l, l ∈ readsOf unsetMachine .nop → l ∉ unsetMachine.unset) := by decide

theorem witness_EveryStepKeepsTheInvariant : ready.Inv ∧ step ready = .next readyNext :=
  ⟨⟨by decide, by decide, by decide, by decide⟩, ready_steps⟩

theorem witness_StepsKeepParametersAndLiveness : step ready = .next readyNext := ready_steps

/-- Two undefined machines that differ in A: a NOP runs in both. -/
theorem witness_UndefinedPlacesNeverInfluenceAStep :
    AgreeOnDefined unsetMachine { unsetMachine with regs := { unsetMachine.regs with a := 0xFF#8 } } ∧
    step unsetMachine = .next ((unsetMachine.setPc 0x0001#16).report 4) where
  left :=
    { unset := rfl
      regs := fun r hr => absurd (by cases r <;> decide) hr
      flags := fun _ _ => rfl
      sp := fun _ => rfl
      pc := rfl
      inte := rfl
      eiShadow := rfl
      halted := rfl
      fault := rfl
      refusedMark := rfl
      mem := rfl
      params := rfl
      env := rfl
      events := rfl }
  right := rfl

theorem witness_WrittenByteReadsBackAlone : (0x0000#16 : Word) ≠ 0xFFFF#16 ∧
    (State.reset.write 0xFFFF#16 0x5A#8).read 0xFFFF#16 = 0x5A#8 ∧
    (State.reset.write 0xFFFF#16 0x5A#8).read 0x0000#16 = 0x00#8 := by decide

/-- Both policies of the auxiliary carry (R164). -/
theorem witness_acPolicy : State.reset.params.acPolicy = .document ∧ silicon.params.acPolicy = .silicon8080 := by decide

/-- The values at which the adjustments of DAA begin: 0x99 stays, 0x9A becomes 0x00 with a carry (R210). -/
theorem witness_DaaAdjustsInTwoSteps :
    daa8 0x99#8 false false = { res := 0x99#8, cy := false, ac := false } ∧
    daa8 0x9A#8 false false = { res := 0x00#8, cy := true, ac := true } ∧
    daa8 0x09#8 false false = { res := 0x09#8, cy := false, ac := false } ∧
    daa8 0x0A#8 false false = { res := 0x10#8, cy := false, ac := true } := by decide

theorem witness_DecimalAdditionIsExact : packed ((ready.setReg .a 0x99#8).reg .a) = true ∧ packed 0x99#8 = true := by
  decide

theorem witness_OppositeOperationsRestoreOperands : Reg.b ≠ Reg.a ∧ Reg.l ≠ Reg.a := by decide

theorem witness_RotatesMoveBitsThroughCarry : (0 : Nat) < 7 ∧ (6 : Nat) < 7 := by decide

theorem witness_PushThenPopCopiesAPair :
    (StackPair.psw = StackPair.psw ∧ StackPair.bc ≠ StackPair.psw) ∧ StackPair.hl = StackPair.hl := by decide

/-- A CALL, and a callee that gives SP and the two stack bytes back with everything else reset. -/
theorem witness_CallThenReturnComesBack :
    (let u := ((State.reset.write 0x23FF#16 0x01#8).write 0x23FE#16 0x03#8).setSp 0x23FE#16
     match exec (.call 0x0300#16) (at0100 [0xCD#8, 0x00#8, 0x03#8]) with
     | .next t => u.sp = t.sp ∧ u.read t.sp = t.read t.sp ∧ u.read (t.sp + 1#16) = t.read (t.sp + 1#16)
     | .fault _ => False
     | .refused _ => False) := ⟨rfl, rfl, rfl⟩

/-- A condition that holds and one that does not, for each flag tested, and a machine with the default `CYCLES`. -/
theorem witness_conditions :
    (∀ cond, (State.reset.setFlag (Machine.Cond.tests cond) true).holds cond ≠
      (State.reset.setFlag (Machine.Cond.tests cond) false).holds cond) ∧ State.reset.params.cycleRows = [] :=
  ⟨fun cond => by cases cond <;> decide, rfl⟩

/-- A machine with interrupts enabled and a request with vector 3 presented. -/
def interruptible : State := requesting (setInte (at0100 []) true) 3

theorem witness_InterruptAcceptancePushesPc :
    live interruptible = true ∧ interruptible.request = some 3 ∧ interruptible.params.irqModel = .rstAny ∧
    interruptible.inte = true ∧ interruptible.eiShadow = false ∧ Loc.sp ∉ interruptible.unset ∧
    interruptedNow interruptible = true := by decide

/-- A request presented while interrupts are disabled. -/
theorem witness_MaskedRequestsAreIgnored : (requesting ready 3).fault = none ∧
    interruptedNow (requesting ready 3) = false ∧ (requesting ready 3).request = some 3 := by decide

theorem witness_HaltedStepsChangeNothing : live (setHalted ready true) = true ∧ (setHalted ready true).halted = true ∧
    interruptedNow (setHalted ready true) = false ∧ (setHalted ready true).runClass = .finished := by decide

theorem witness_AbsentOpcodeFaults : live (at0100 [0x08#8]) = true ∧ interruptedNow (at0100 [0x08#8]) = false ∧
    (at0100 [0x08#8]).halted = false ∧ (at0100 [0x08#8]).read (at0100 [0x08#8]).pc ∈ absentBytes := by decide

/-- A machine with a recorded fault, one of each kind, and a refused one. -/
theorem witness_FaultsAndRefusalsAreSticky :
    (ready.faulted .unrecognizedOpcode 0x08#8).fault =
      some { kind := .unrecognizedOpcode, op := 0x08#8, pc := 0x0100#16 } ∧
    (ready.faulted .unhandledOperand 0x76#8).fault =
      some { kind := .unhandledOperand, op := 0x76#8, pc := 0x0100#16 } ∧
    (ready.faulted .uninitializedRead 0xC5#8).fault =
      some { kind := .uninitializedRead, op := 0xC5#8, pc := 0x0100#16 } ∧
    ready.refusing.fault = none ∧ ready.refusing.refusedMark = true := by decide

/-- JMP on a `doc_only` machine (V201). -/
theorem witness_DocOnlyRefusesUndescribedRows :
    (let s := docOnly.load 0x0000#16 [0xC3#8, 0x34#8, 0x12#8]
     live s = true ∧ interruptedNow s = false ∧ s.halted = false ∧ s.params.admitGk = .docOnly ∧
     decode [s.read s.pc, s.read (s.pc + 1#16), s.read (s.pc + 2#16)] = .ok (.jmp 0x1234#16, []) ∧
     documented (.jmp 0x1234#16) = false) := by decide

/-- A documented row on a `doc_only` machine (V202), and any row on a machine that admits all. -/
theorem witness_DocOnlyRefusesUndescribedRows_admitted :
    (let s := docOnly.load 0x0000#16 [0x80#8]
     live s = true ∧ interruptedNow s = false ∧ s.halted = false ∧ s.params.admitGk = .docOnly ∧
     decode [s.read s.pc, s.read (s.pc + 1#16), s.read (s.pc + 2#16)] = .ok (.add (.reg .b), [0x00#8, 0x00#8]) ∧
     documented (.add (.reg .b)) = true) ∧ ready.params.admitGk = .all := by decide

/-- How many of the 64 opcode bytes with these two high bits have a documented row. -/
def documentedRows (high : BitVec 2) : Nat :=
  (List.range 64).countP fun low =>
    match decode [high ++ BitVec.ofNat 6 low, 0x00#8, 0x00#8] with
    | .ok (i, _) => documented i
    | .error _ => false

/-- The rows of spec/opcode_table.json with `semantics_source` = `doc`, by the two high bits of the opcode byte. -/
theorem test_documented_rows : documentedRows 0 = 29 ∧ documentedRows 1 = 63 ∧ documentedRows 2 = 64 ∧
    documentedRows 3 = 8 := ⟨rfl, rfl, rfl, rfl⟩

/-- PUSH B on an undefined machine (V203). -/
theorem witness_UninitialisedReadsFault :
    (let s := unsetMachine.load 0x0000#16 [0xC5#8]
     live s = true ∧ interruptedNow s = false ∧ s.halted = false ∧
     decode [s.read s.pc, s.read (s.pc + 1#16), s.read (s.pc + 2#16)] = .ok (.push .bc, [0x00#8, 0x00#8]) ∧
     s.params.admitGk = .all ∧ Loc.sp ∈ readsOf s (.push .bc) ∧ Loc.sp ∈ s.unset) := by decide

/-- An acceptance step on an undefined machine (V205). -/
theorem witness_UninitialisedReadsFault_acceptance :
    (let s := requesting (setInte unsetMachine true) 1
     live s = true ∧ s.request = some 1 ∧ interruptedNow s = true ∧ Loc.sp ∈ s.unset) := by decide

/-- LXI SP on an undefined machine completes and gives SP, and no other place, a value (R405: "holds no value since
reset"). -/
theorem witness_UninitialisedReadsFault_marks :
    (match exec (.lxi .sp 0x2400#16) unsetMachine with
     | .next t => unsetMachine.unset.length = 13 ∧ Loc.sp ∉ t.unset ∧ t.unset.length = 12
     | .fault _ => False
     | .refused _ => False) := ⟨rfl, by decide, rfl⟩

/-- A conditional return that is taken and one that is not: SP is written, or nothing is. -/
theorem witness_writesOf : writesOf (ready.setFlag .z true) .rz = [.sp] ∧
    writesOf (ready.setFlag .z false) .rz = [] := by decide

theorem witness_UnhandledOperandIsUnreachable : ready.fault = none := rfl

/-- A well-formed term, and one that is no instruction. -/
theorem witness_WellFormedInstructionsAlwaysComplete :
    (Instr.ldax .de).wellFormed = true ∧ (Instr.ldax .hl).wellFormed = false := by decide

/-- An instruction that writes no flag, one that writes CY only, one that writes all but CY; the first completes. -/
theorem witness_OnlyListedInstructionsWriteFlags :
    exec .cma ready = .next readyNext ∧ writesResultFlags .cma = false ∧ writesCarry .cma = false ∧
    writesResultFlags .stc = false ∧ writesCarry (.inr .m) = false := ⟨rfl, rfl, rfl, rfl, rfl⟩

theorem witness_CycleCountsAreNeverRead : step ready = .next readyNext := ready_steps

/-- A step that faults on an absent opcode byte, and one that is refused. -/
theorem witness_CycleCountsAreNeverRead_stops :
    step (at0100 [0x08#8]) = .fault (.unrecognizedOpcode 0x08#8 0x0100#16
      ((at0100 [0x08#8]).faulted .unrecognizedOpcode 0x08#8)) ∧
    step ready.refusing = .refused .afterRefusal := ⟨rfl, rfl⟩

end Sys2Proof.Tests
end

section
/-! PROOFS. 20_memory.md: `Push16` and `Pop16` (R80, R81). The bytes and words of the model as numbers, what the two
operations leave, and the frame of an operation as the statements write it. -/

open Sys2Proof Sys2Proof.Claims

namespace Sys2Proof.Machine

/-! ### Bytes and words as numbers -/

theorem hiByte_toNat (v : Word) : (hiByte v).toNat = v.toNat / 256 := by
  simp only [hiByte, BitVec.toNat_ofNat]
  omega

theorem loByte_toNat (v : Word) : (loByte v).toNat = v.toNat % 256 := by
  simp only [loByte, BitVec.toNat_ofNat]

theorem joinBytes_toNat (hi lo : Byte) : (joinBytes hi lo).toNat = hi.toNat * 256 + lo.toNat := by
  simp only [joinBytes, BitVec.toNat_ofNat]
  omega

/-! ### What an operation leaves unchanged, in the words of the statements -/

/-- What touches only the listed places has them as its frame. -/
theorem Touches.frame {w : List Loc} {m : List Word} {s t : State} (h : Touches w m s t) : Frame w m s t where
  keeps := h.keeps
  control := h.control
  io := h.io

/-! ### The stack operations -/

/-- The second byte of the push goes to another address, so the first one stays. -/
theorem push16_read_high (s : State) (v : Word) : (s.push16 v).read (s.sp - 1#16) = hiByte v := by
  have hne : s.sp - 1#16 ≠ s.sp - 2#16 := by bv_omega
  simp [State.push16, State.push8, pred_pred, hne]

theorem push16_read_low (s : State) (v : Word) : (s.push16 v).read (s.sp - 2#16) = loByte v := by
  simp [State.push16, State.push8, pred_pred]

/-- The net effect of `Push16` (R80). -/
theorem push16_pushes (s : State) (v : Word) : Pushes s (s.push16 v) v where
  high := by rw [push16_read_high, hiByte_toNat]
  low := by rw [push16_read_low, loByte_toNat]
  sp := push16_sp s v

/-- The net effect of `Pop16` (R81). -/
theorem drop16_pops (s : State) : Pops s s.drop16 s.top16 where
  value := joinBytes_toNat (s.read (s.sp + 1#16)) (s.read s.sp)
  sp := setSp_sp s (s.sp + 2#16)

/-- Settles O12: the net effects and the frames of both operations, and the round trip. -/
theorem pushAndPopMoveWords : Obligations.PushAndPopMoveWords := by
  intro s v
  obtain ⟨hword, hsp⟩ := push16_pop16 s v
  exact ⟨push16_pushes s v, (push16_touches s v).frame, drop16_pops s, (drop16_touches s).frame, hword, hsp⟩

end Sys2Proof.Machine
end

section
/-! PROOFS. 41_arithmetic.md: addition, subtraction, comparison and counting (R180 to R205). The pure ALU functions as
numbers, the flags an operation leaves in the words of the statements, what each shared operation does on any state, and
how an instruction's effect on the fetched state becomes a fact about the completed instruction. -/

open Sys2Proof Sys2Proof.Claims

namespace Sys2Proof.Machine

/-! ### Parity -/

/-- The 1 bits counted by adding and by filtering. -/
theorem sum_map_toNat_eq_length_filter {α : Type} (p : α → Bool) (l : List α) :
    (l.map (fun x => (p x).toNat)).sum = (l.filter p).length := by
  induction l with
  | nil => rfl
  | cons x l ih => cases h : p x <;> simp [h, ih, Nat.add_comm]

theorem popcount_eq_ones (v : Byte) : popcount v = ones v := by
  rw [popcount, ones, ← sum_map_toNat_eq_length_filter, ← List.map_coe_finRange_eq_range, List.map_map]
  rfl

theorem evenParity_eq (v : Byte) : evenParity v = decide (ones v % 2 = 0) := by
  rw [evenParity, popcount_eq_ones]

/-! ### The pure ALU functions as numbers -/

theorem bit_eq_toNat (b : Bool) : bit b = b.toNat := by
  cases b <;> rfl

theorem add8_res_toNat (a v : Byte) (cin : Bool) :
    (add8 a v cin).res.toNat = (a.toNat + v.toNat + bit cin) % 256 := by
  rw [bit_eq_toNat]
  exact BitVec.toNat_ofNat ..

theorem add8_cy (a v : Byte) (cin : Bool) :
    (add8 a v cin).cy = decide (255 < a.toNat + v.toNat + bit cin) := by
  rw [bit_eq_toNat]
  rfl

theorem add8_ac (a v : Byte) (cin : Bool) :
    (add8 a v cin).ac = decide (15 < nibble a + nibble v + bit cin) := by
  rw [bit_eq_toNat]
  rfl

/-- The difference of bytes wraps as the difference of numbers does when 512 is added first. -/
theorem sub8_res_toNat (policy : AcPolicy) (a v : Byte) (bin : Bool) :
    (sub8 policy a v bin).res.toNat = difference a v bin := by
  cases bin <;> simp [sub8, difference, bit, BitVec.toNat_sub] <;> omega

theorem sub8_cy (policy : AcPolicy) (a v : Byte) (bin : Bool) :
    (sub8 policy a v bin).cy = decide (a.toNat < v.toNat + bit bin) := by
  rw [bit_eq_toNat]
  rfl

/-- R163: the document's auxiliary carry is the borrow out of bit 3. -/
theorem sub8_ac_document (a v : Byte) (bin : Bool) :
    (sub8 .document a v bin).ac = decide (nibble a < nibble v + bit bin) := by
  rw [bit_eq_toNat]
  rfl

/-- R164: the silicon's auxiliary carry is the borrow's negation. -/
theorem sub8_ac_silicon (a v : Byte) (bin : Bool) :
    (sub8 .silicon8080 a v bin).ac = !decide (nibble a < nibble v + bit bin) := by
  rw [bit_eq_toNat, ← decide_not]
  exact decide_eq_decide.mpr Nat.not_lt.symm

theorem incAc_eq (v : Byte) : incAc v = decide (nibble v = 0) := rfl

/-- R166 and R164: the silicon negates the document's auxiliary carry of a decrement. -/
theorem decAc_eq (policy : AcPolicy) (v : Byte) :
    decAc policy v = (decide (nibble v = 15) ^^ decide (policy = .silicon8080)) := by
  cases policy with
  | document => exact (Bool.xor_false _).symm
  | silicon8080 => exact decide_not.trans (Bool.xor_true _).symm

/-! ### What an operation leaves, in the words of the statements -/

theorem szp_resultFlags (s : State) (v : Byte) : ResultFlags (s.szp v) v where
  sign := rfl
  zero := decide_eq_decide.mpr BitVec.toNat_inj.symm
  parity := evenParity_eq v

theorem aluFlags_resultFlags (s : State) (r : AluResult) : ResultFlags (s.aluFlags r) r.res :=
  szp_resultFlags _ r.res

theorem alu_resultFlags (s : State) (r : AluResult) : ResultFlags (s.alu r) r.res :=
  aluFlags_resultFlags _ r

/-- The flags of the subtraction, whether or not A is then written. -/
theorem borrows_of_flags {s t : State} {v : Byte} {bin : Bool}
    (hcy : t.flag .cy = (sub8 s.params.acPolicy (s.reg .a) v bin).cy)
    (hac : t.flag .ac = (sub8 s.params.acPolicy (s.reg .a) v bin).ac) : Borrows s t v bin where
  carry := hcy.trans (sub8_cy _ _ v bin)
  auxDocument := fun h => by rw [hac, h, sub8_ac_document]
  auxSilicon := fun h => by rw [hac, h, sub8_ac_silicon]

/-! ### From the effect on the fetched state to the completed instruction

Fetching and reporting change PC, EI_SHADOW and the reported count only, and none of the statements' relations speaks of
these. Each lemma is about a shared operation in the frame of `completes`: `n` bytes fetched, `c` cycles reported. -/

theorem report_resultFlags {t : State} {v : Byte} (h : ResultFlags t v) (c : Nat) : ResultFlags (t.report c) v where
  sign := h.sign
  zero := h.zero
  parity := h.parity

theorem Touches.completedFrame {w : List Loc} {m : List Word} {s t : State} {n : Nat} (h : Touches w m (s.fetched n) t)
    (c : Nat) : Frame w m s (t.report c) := by
  obtain ⟨hkeeps, hcontrol, hio⟩ := h.completed c
  exact ⟨hkeeps, hcontrol, hio⟩

section Completed

variable (s : State) (n c : Nat) (v : Byte)

theorem addA_completed (cin : Bool) :
    Added s (((s.fetched n).addA v cin).report c) v cin ∧
      (((s.fetched n).addA v cin).report c).pc = s.pc + BitVec.ofNat 16 n := by
  have htouch := alu_touches (s.fetched n) (add8 (s.reg .a) v cin)
  exact ⟨{
    sum := add8_res_toNat (s.reg .a) v cin
    carry := add8_cy (s.reg .a) v cin
    aux := add8_ac (s.reg .a) v cin
    result := report_resultFlags (alu_resultFlags _ _) c
    frame := htouch.completedFrame c }, htouch.pc⟩

theorem subA_completed (bin : Bool) :
    Subtracted s (((s.fetched n).subA v bin).report c) v bin ∧
      (((s.fetched n).subA v bin).report c).pc = s.pc + BitVec.ofNat 16 n := by
  have htouch := alu_touches (s.fetched n) (sub8 s.params.acPolicy (s.reg .a) v bin)
  exact ⟨{
    difference := sub8_res_toNat s.params.acPolicy (s.reg .a) v bin
    borrows := borrows_of_flags rfl rfl
    result := report_resultFlags (alu_resultFlags _ _) c
    frame := htouch.completedFrame c }, htouch.pc⟩

theorem cmpA_completed :
    Compared s (((s.fetched n).cmpA v).report c) v ∧
      (((s.fetched n).cmpA v).report c).pc = s.pc + BitVec.ofNat 16 n := by
  have hres : (sub8 s.params.acPolicy (s.reg .a) v false).res = BitVec.ofNat 8 (difference (s.reg .a) v false) := by
    rw [← sub8_res_toNat s.params.acPolicy, BitVec.ofNat_toNat, BitVec.setWidth_eq]
  have htouch := aluFlags_touches (s.fetched n) (sub8 s.params.acPolicy (s.reg .a) v false)
  exact ⟨{
    accumulator := rfl
    borrows := borrows_of_flags rfl rfl
    result := hres ▸ report_resultFlags (aluFlags_resultFlags _ _) c
    frame := htouch.completedFrame c }, htouch.pc⟩

end Completed

/-! ### Addition, subtraction and comparison: the obligations -/

/-- Settles O13: both forms add with carry-in 0. -/
theorem addSetsAccumulatorAndFlags : Obligations.AddSetsAccumulatorAndFlags := fun s =>
  ⟨fun src => ⟨rfl, _, exec_add src s, addA_completed s 1 _ (s.src src) false⟩,
   fun d8 => ⟨rfl, _, exec_adi d8 s, addA_completed s 2 _ d8 false⟩⟩

/-- Settles O14: both forms add with the old CY as carry-in. -/
theorem adcAddsTheCarryToo : Obligations.AdcAddsTheCarryToo := fun s =>
  ⟨fun src => ⟨rfl, _, exec_adc src s, addA_completed s 1 _ (s.src src) (s.flag .cy)⟩,
   fun d8 => ⟨rfl, _, exec_aci d8 s, addA_completed s 2 _ d8 (s.flag .cy)⟩⟩

/-- Settles O15: both forms subtract with borrow-in 0. -/
theorem subSetsAccumulatorAndBorrows : Obligations.SubSetsAccumulatorAndBorrows := fun s =>
  ⟨fun src => ⟨rfl, _, exec_sub src s, subA_completed s 1 _ (s.src src) false⟩,
   fun d8 => ⟨rfl, _, exec_sui d8 s, subA_completed s 2 _ d8 false⟩⟩

/-- Settles O16: both forms subtract with the old CY as borrow-in. -/
theorem sbbSubtractsTheBorrowToo : Obligations.SbbSubtractsTheBorrowToo := fun s =>
  ⟨fun src => ⟨rfl, _, exec_sbb src s, subA_completed s 1 _ (s.src src) (s.flag .cy)⟩,
   fun d8 => ⟨rfl, _, exec_sbi d8 s, subA_completed s 2 _ d8 (s.flag .cy)⟩⟩

/-- Settles O17: both forms write the flags of a subtraction with borrow-in 0. -/
theorem cmpSetsFlagsAndKeepsAccumulator : Obligations.CmpSetsFlagsAndKeepsAccumulator := fun s =>
  ⟨fun src => ⟨rfl, _, exec_cmp src s, cmpA_completed s 1 _ (s.src src)⟩,
   fun d8 => ⟨rfl, _, exec_cpi d8 s, cmpA_completed s 2 _ d8⟩⟩

/-! ### Counting -/

/-- The byte that `t` holds at the place an operand names in `s`: M is the address HL had before. -/
def valueIn (s t : State) : Operand → Byte
  | .reg r => t.reg r
  | .m => t.read (s.pair .hl)

/-- `t` is `s` after an instruction of one byte has counted the operand `d` to `v`: what INR and DCR share (R200 to
R205). -/
structure Counted (s t : State) (d : Operand) (v : Byte) (ac : Bool) : Prop where
  value : valueIn s t d = v
  aux : t.flag .ac = ac
  result : ResultFlags t v
  pc : t.pc = s.pc + 1#16
  frame : Frame (operandLocs d ++ countFlags) (operandStores s d) s t

theorem setDst_valueIn (s : State) (d : Operand) (v : Byte) : valueIn s (s.setDst d v) d = v := by
  cases d with
  | reg r => exact (setReg_reg s r v r).trans (if_pos rfl)
  | m => exact (write_read s _ _ v).trans (if_pos rfl)

@[simp] theorem fetched_operandStores (s : State) (n : Nat) (d : Operand) :
    operandStores (s.fetched n) d = operandStores s d := by
  cases d <;> rfl

/-- The store, AC and `szp` that INR and DCR are made of, with one byte fetched and `c` cycles reported. -/
theorem count_completed (s : State) (d : Operand) (v : Byte) (ac : Bool) (c : Nat) :
    Counted s (((((s.fetched 1).setDst d v).setFlag .ac ac).szp v).report c) d v ac := by
  have htouch := ((setDst_touches (s.fetched 1) d v).trans (setFlag_touches _ .ac ac)).trans (szp_touches _ v)
  have hlocs : ∀ l, l ∈ operandLocs d ++ [.flag .ac] ++ [.flag .s, .flag .z, .flag .p] ↔
      l ∈ operandLocs d ++ countFlags := by
    intro l
    simp only [countFlags, List.mem_append, List.mem_cons, List.not_mem_nil, or_false]
    tauto
  exact {
    value := setDst_valueIn (s.fetched 1) d v
    aux := rfl
    result := report_resultFlags (szp_resultFlags _ v) c
    pc := htouch.pc
    frame := (htouch.congr hlocs (by simp)).completedFrame c }

/-- INR of either operand form, in the numbers of the statement (R200, R201). -/
theorem exec_inr_counts (s : State) (d : Operand) :
    ∃ t, exec (.inr d) s = .next t ∧ (valueIn s t d).toNat = ((s.src d).toNat + 1) % 256 ∧
      t.flag .ac = decide (nibble (valueIn s t d) = 0) ∧ ResultFlags t (valueIn s t d) ∧ t.pc = s.pc + 1#16 ∧
      Frame (operandLocs d ++ countFlags) (operandStores s d) s t := by
  obtain ⟨t, hexec, hvalue, haux, hresult, hpc, hframe⟩ : ∃ t, exec (.inr d) s = .next t ∧
      Counted s t d (s.src d + 1#8) (incAc (s.src d + 1#8)) :=
    ⟨_, exec_inr d s, count_completed s d _ _ _⟩
  refine ⟨t, hexec, ?_⟩
  rw [hvalue]
  exact ⟨BitVec.toNat_add _ _, haux.trans (incAc_eq _), hresult, hpc, hframe⟩

/-- DCR of either operand form, in the numbers of the statement (R204, R205). -/
theorem exec_dcr_counts (s : State) (d : Operand) :
    ∃ t, exec (.dcr d) s = .next t ∧ (valueIn s t d).toNat = ((s.src d).toNat + 255) % 256 ∧
      t.flag .ac = (decide (nibble (valueIn s t d) = 15) ^^ decide (s.params.acPolicy = .silicon8080)) ∧
      ResultFlags t (valueIn s t d) ∧ t.pc = s.pc + 1#16 ∧
      Frame (operandLocs d ++ countFlags) (operandStores s d) s t := by
  obtain ⟨t, hexec, hvalue, haux, hresult, hpc, hframe⟩ : ∃ t, exec (.dcr d) s = .next t ∧
      Counted s t d (s.src d - 1#8) (decAc s.params.acPolicy (s.src d - 1#8)) :=
    ⟨_, exec_dcr d s, count_completed s d _ _ _⟩
  have hnat : (s.src d - 1#8).toNat = ((s.src d).toNat + 255) % 256 := by bv_omega
  refine ⟨t, hexec, ?_⟩
  rw [hvalue]
  exact ⟨hnat, haux.trans (decAc_eq _ _), hresult, hpc, hframe⟩

/-- Settles O18: the register form and the M form are the two operands of one count. -/
theorem inrIncrementsAndKeepsCarry : Obligations.InrIncrementsAndKeepsCarry := fun s =>
  ⟨fun r => ⟨rfl, exec_inr_counts s (.reg r)⟩, rfl, exec_inr_counts s .m⟩

/-- Settles O19: as O18, with AC by the policy. -/
theorem dcrDecrementsAndKeepsCarry : Obligations.DcrDecrementsAndKeepsCarry := fun s =>
  ⟨fun r => ⟨rfl, exec_dcr_counts s (.reg r)⟩, rfl, exec_dcr_counts s .m⟩

end Sys2Proof.Machine
end

section
/-! PROOFS. 42_logical_rotate.md: the logical operations, CMA, CMC, STC and the rotations (R230 to R248). What each shared
operation leaves on any state after the fetch; how an instruction's effect becomes a fact about the completed instruction
is `Touches.completedFrame` of the arithmetic. -/

open Sys2Proof Sys2Proof.Claims

namespace Sys2Proof.Machine

/-! ### AND, XOR and OR -/

/-- R167 and R164: the silicon's auxiliary carry of AND is bit 3 of the OR, the document's is 0. -/
theorem andAc_eq_andAux (s : State) (v : Byte) : andAc s.params.acPolicy (s.reg .a) v = andAux s v := by
  cases h : s.params.acPolicy with
  | document => simp [andAc, andAux, h]
  | silicon8080 => simp [andAc, andAux, h]

section Completed

variable (s : State) (n c : Nat) (v : Byte)

/-- An ALU result without a carry out, written to A and the flags with `n` bytes fetched and `c` cycles reported. -/
theorem alu_combined (r : AluResult) (hcy : r.cy = false) :
    Combined s (((s.fetched n).alu r).report c) r.res r.ac ∧
      (((s.fetched n).alu r).report c).pc = s.pc + BitVec.ofNat 16 n := by
  have htouch := alu_touches (s.fetched n) r
  exact ⟨{
    value := rfl
    carry := hcy
    aux := rfl
    result := report_resultFlags (alu_resultFlags _ _) c
    frame := htouch.completedFrame c }, htouch.pc⟩

theorem andA_completed :
    Combined s (((s.fetched n).andA v).report c) (s.reg .a &&& v) (andAux s v) ∧
      (((s.fetched n).andA v).report c).pc = s.pc + BitVec.ofNat 16 n := by
  rw [← andAc_eq_andAux]
  exact alu_combined s n c (and8 s.params.acPolicy (s.reg .a) v) rfl

theorem xorA_completed :
    Combined s (((s.fetched n).xorA v).report c) (s.reg .a ^^^ v) false ∧
      (((s.fetched n).xorA v).report c).pc = s.pc + BitVec.ofNat 16 n :=
  alu_combined s n c (xor8 (s.reg .a) v) rfl

theorem orA_completed :
    Combined s (((s.fetched n).orA v).report c) (s.reg .a ||| v) false ∧
      (((s.fetched n).orA v).report c).pc = s.pc + BitVec.ofNat 16 n :=
  alu_combined s n c (or8 (s.reg .a) v) rfl

end Completed

/-- Settles O23: both forms are one AND, AC by the policy. -/
theorem anaClearsCarry : Obligations.AnaClearsCarry := fun s =>
  ⟨fun src => ⟨rfl, _, exec_ana src s, andA_completed s 1 _ (s.src src)⟩,
   fun d8 => ⟨rfl, _, exec_ani d8 s, andA_completed s 2 _ d8⟩⟩

/-- Settles O24: both forms are one exclusive OR, whose two carries are 0. -/
theorem xraClearsBothCarries : Obligations.XraClearsBothCarries := fun s =>
  ⟨fun src => ⟨rfl, _, exec_xra src s, xorA_completed s 1 _ (s.src src)⟩,
   fun d8 => ⟨rfl, _, exec_xri d8 s, xorA_completed s 2 _ d8⟩⟩

/-- Settles O25: both forms are one OR, whose two carries are 0. -/
theorem oraClearsBothCarries : Obligations.OraClearsBothCarries := fun s =>
  ⟨fun src => ⟨rfl, _, exec_ora src s, orA_completed s 1 _ (s.src src)⟩,
   fun d8 => ⟨rfl, _, exec_ori d8 s, orA_completed s 2 _ d8⟩⟩

/-! ### Complement and carry control -/

/-- An effect that leaves PC alone completes with PC past the instruction and the frame of what it touches. -/
theorem Touches.completedPcFrame {w : List Loc} {m : List Word} {s t : State} {n : Nat}
    (h : Touches w m (s.fetched n) t) (c : Nat) :
    (t.report c).pc = s.pc + BitVec.ofNat 16 n ∧ Frame w m s (t.report c) :=
  ⟨h.pc, h.completedFrame c⟩

/-- Settles O26: each of the three writes one place, A or CY. -/
theorem complementAndCarryControl : Obligations.ComplementAndCarryControl := fun s =>
  ⟨⟨rfl, _, exec_cma s, BitVec.toNat_not, (setReg_touches (s.fetched 1) .a _).completedPcFrame _⟩,
   ⟨rfl, _, exec_cmc s, rfl, (setFlag_touches (s.fetched 1) .cy _).completedPcFrame _⟩,
   ⟨rfl, _, exec_stc s, rfl, (setFlag_touches (s.fetched 1) .cy _).completedPcFrame _⟩⟩

/-! ### Rotations -/

section Rotations

variable (a : Byte) (b : Bool)

theorem rotateIntoLow_zero : (rotateIntoLow a b).getLsbD 0 = b :=
  rotateIntoLow_bit a b 0

theorem rotateIntoLow_succ (k : Nat) (hk : k < 7) : (rotateIntoLow a b).getLsbD (k + 1) = a.getLsbD k := by
  have hk8 : k + 1 < 8 := Nat.succ_lt_succ hk
  rw [rotateIntoLow_bit]
  simp [hk8]

theorem rotateIntoHigh_seven : (rotateIntoHigh a b).getLsbD 7 = b :=
  rotateIntoHigh_bit a b 7

theorem rotateIntoHigh_of_lt (k : Nat) (hk : k < 7) : (rotateIntoHigh a b).getLsbD k = a.getLsbD (k + 1) := by
  simp [rotateIntoHigh_bit, hk, hk.ne]

end Rotations

/-- A rotation writes A and CY, in the order of the statements. -/
theorem rotate_completed (s : State) (n c : Nat) (v : Byte) (b : Bool) :
    (((s.fetched n).rotate v b).report c).pc = s.pc + BitVec.ofNat 16 n ∧
      Frame [.reg .a, .flag .cy] [] s (((s.fetched n).rotate v b).report c) := by
  have htouch : Touches [.reg .a, .flag .cy] [] (s.fetched n) ((s.fetched n).rotate v b) :=
    (rotate_touches (s.fetched n) v b).congr (fun _ => (List.Perm.swap _ _ []).mem_iff) (fun _ => id)
  exact htouch.completedPcFrame c

/-- Settles O27: RLC and RAL shift into bit 0, RRC and RAR into bit 7; the bit that comes in is the one that leaves for
RLC and RRC, the old CY for RAL and RAR. -/
theorem rotatesMoveBitsThroughCarry : Obligations.RotatesMoveBitsThroughCarry := fun s =>
  let a := s.reg .a
  ⟨⟨rfl, _, exec_rlc s, rfl, rotateIntoLow_zero a (a.getLsbD 7), rotateIntoLow_succ a (a.getLsbD 7),
      rotate_completed s 1 _ _ _⟩,
   ⟨rfl, _, exec_rrc s, rfl, rotateIntoHigh_seven a (a.getLsbD 0), rotateIntoHigh_of_lt a (a.getLsbD 0),
      rotate_completed s 1 _ _ _⟩,
   ⟨rfl, _, exec_ral s, rfl, rotateIntoLow_zero a (s.flag .cy), rotateIntoLow_succ a (s.flag .cy),
      rotate_completed s 1 _ _ _⟩,
   ⟨rfl, _, exec_rar s, rfl, rotateIntoHigh_seven a (s.flag .cy), rotateIntoHigh_of_lt a (s.flag .cy),
      rotate_completed s 1 _ _ _⟩⟩

end Sys2Proof.Machine
end

section
/-! PROOFS. 43_data_transfer.md: MOV, LDAX and STAX (R260 to R262, R270, R271). What a byte written to an operand and a
byte stored to an address leave after the fetch; then each instruction once, for any operands it has. The statements'
forms are its instances. -/

open Sys2Proof Sys2Proof.Claims

namespace Sys2Proof.Machine

section Completed

variable (s : State) (n c : Nat) (v : Byte)

theorem setDst_completed (d : Operand) :
    valueIn s (((s.fetched n).setDst d v).report c) d = v ∧
      (((s.fetched n).setDst d v).report c).pc = s.pc + BitVec.ofNat 16 n ∧
      Frame (operandLocs d) (operandStores s d) s (((s.fetched n).setDst d v).report c) := by
  have htouch := setDst_touches (s.fetched n) d v
  rw [fetched_operandStores] at htouch
  exact ⟨setDst_valueIn (s.fetched n) d v, htouch.completedPcFrame c⟩

theorem write_completed (a : Word) :
    (((s.fetched n).write a v).report c).read a = v ∧
      (((s.fetched n).write a v).report c).pc = s.pc + BitVec.ofNat 16 n ∧
      Frame [] [a] s (((s.fetched n).write a v).report c) :=
  ⟨(write_read (s.fetched n) a a v).trans (if_pos rfl), (write_touches (s.fetched n) a v).completedPcFrame c⟩

end Completed

@[simp] theorem fetched_pair (s : State) (n : Nat) (p : RegPair) : (s.fetched n).pair p = s.pair p := by
  cases p <;> rfl

@[simp] theorem fetched_src (s : State) (n : Nat) (src : Operand) : (s.fetched n).src src = s.src src := by
  cases src <;> rfl

/-- R260 to R262: MOV between any two operands but M and M. -/
theorem exec_mov_copies (s : State) (d src : Operand) (hwf : (Instr.mov d src).wellFormed = true) :
    ∃ t, exec (.mov d src) s = .next t ∧ valueIn s t d = s.src src ∧ t.pc = s.pc + 1#16 ∧
      Frame (operandLocs d) (operandStores s d) s t := by
  rw [exec_mov, completesIfKnown_of_wellFormed _ _ _ hwf, completes_eq, fetched_src]
  exact ⟨_, rfl, setDst_completed s 1 _ (s.src src) d⟩

/-- R270: A is the destination operand of the load. -/
theorem exec_ldax_loads (s : State) (p : RegPair) (hwf : (Instr.ldax p).wellFormed = true) :
    ∃ t, exec (.ldax p) s = .next t ∧ t.reg .a = s.read (s.pair p) ∧ t.pc = s.pc + 1#16 ∧
      Frame [.reg .a] [] s t := by
  rw [exec_ldax, completesIfKnown_of_wellFormed _ _ _ hwf, completes_eq, fetched_pair, fetched_read]
  exact ⟨_, rfl, setDst_completed s 1 _ (s.read (s.pair p)) (.reg .a)⟩

/-- R271: the pair is the address of the store. -/
theorem exec_stax_stores (s : State) (p : RegPair) (hwf : (Instr.stax p).wellFormed = true) :
    ∃ t, exec (.stax p) s = .next t ∧ t.read (s.pair p) = s.reg .a ∧ t.pc = s.pc + 1#16 ∧
      Frame [] [s.pair p] s t := by
  rw [exec_stax, completesIfKnown_of_wellFormed _ _ _ hwf, completes_eq, fetched_pair, fetched_reg]
  exact ⟨_, rfl, write_completed s 1 _ (s.reg .a) (s.pair p)⟩

/-- Settles O29: the three forms are the well-formed pairs of operands. -/
theorem movCopiesOneByte : Obligations.MovCopiesOneByte := fun s =>
  ⟨fun r1 r2 => ⟨rfl, exec_mov_copies s (.reg r1) (.reg r2) rfl⟩,
   fun r => ⟨rfl, exec_mov_copies s (.reg r) .m rfl⟩,
   fun r => ⟨rfl, exec_mov_copies s .m (.reg r) rfl⟩⟩

/-- Settles O32: BC and DE are the well-formed pairs. -/
theorem indirectLoadsAndStores : Obligations.IndirectLoadsAndStores := fun s =>
  ⟨⟨rfl, exec_ldax_loads s .bc rfl⟩, ⟨rfl, exec_ldax_loads s .de rfl⟩,
   ⟨rfl, exec_stax_stores s .bc rfl⟩, ⟨rfl, exec_stax_stores s .de rfl⟩⟩

end Sys2Proof.Machine
end

section
/-! PROOFS. 44_register_pair.md: INX, DCX and DAD (R290 to R292). What a word written to a pair, and a word added into HL,
leave after the fetch; then each statement is arithmetic modulo 65536 on the pair. -/

open Sys2Proof Sys2Proof.Claims

namespace Sys2Proof.Machine

/-- The places a pair reads (R405) are the places it writes. -/
theorem pairReads_eq_pairLocs (p : RegPair) : pairReads p = pairLocs p := by
  cases p <;> rfl

@[simp] theorem report_pair (s : State) (c : Nat) (p : RegPair) : (s.report c).pair p = s.pair p := by
  cases p <;> rfl

@[simp] theorem setFlag_pair (s : State) (f : Flag) (b : Bool) (p : RegPair) :
    (s.setFlag f b).pair p = s.pair p := by
  cases p <;> rfl

theorem addHl_pair_hl (s : State) (v : Word) : (s.addHl v).pair .hl = s.pair .hl + v := by
  rw [State.addHl, setFlag_pair, setPair_pair]

/-- CY is the carry out of bit 15 (R292), whatever the halves of HL have become. -/
theorem addHl_cy (s : State) (v : Word) :
    (s.addHl v).flag .cy = decide (65535 < (s.pair .hl).toNat + v.toNat) := by
  rw [State.addHl, setFlag_flag, if_pos rfl]

section Completed

variable (s : State) (n c : Nat) (v : Word)

theorem setPair_completed (p : RegPair) :
    (((s.fetched n).setPair p v).report c).pair p = v ∧
      (((s.fetched n).setPair p v).report c).pc = s.pc + BitVec.ofNat 16 n ∧
      Frame (pairReads p) [] s (((s.fetched n).setPair p v).report c) := by
  rw [report_pair, setPair_pair, pairReads_eq_pairLocs]
  exact ⟨rfl, (setPair_touches (s.fetched n) p v).completedPcFrame c⟩

theorem addHl_completed :
    (((s.fetched n).addHl v).report c).pair .hl = s.pair .hl + v ∧
      (((s.fetched n).addHl v).report c).flag .cy = decide (65535 < (s.pair .hl).toNat + v.toNat) ∧
      (((s.fetched n).addHl v).report c).pc = s.pc + BitVec.ofNat 16 n ∧
      Frame [.reg .h, .reg .l, .flag .cy] [] s (((s.fetched n).addHl v).report c) := by
  rw [report_pair, addHl_pair_hl, report_flag, addHl_cy, fetched_pair]
  exact ⟨rfl, rfl, (addHl_touches (s.fetched n) v).completedPcFrame c⟩

end Completed

/-- R290: the pair plus one. -/
theorem exec_inx_counts (s : State) (p : RegPair) :
    ∃ t, exec (.inx p) s = .next t ∧ t.pair p = s.pair p + 1#16 ∧ t.pc = s.pc + 1#16 ∧
      Frame (pairReads p) [] s t := by
  rw [exec_inx, completes_eq, fetched_pair]
  exact ⟨_, rfl, setPair_completed s 1 _ (s.pair p + 1#16) p⟩

/-- R291: the pair minus one. -/
theorem exec_dcx_counts (s : State) (p : RegPair) :
    ∃ t, exec (.dcx p) s = .next t ∧ t.pair p = s.pair p - 1#16 ∧ t.pc = s.pc + 1#16 ∧
      Frame (pairReads p) [] s t := by
  rw [exec_dcx, completes_eq, fetched_pair]
  exact ⟨_, rfl, setPair_completed s 1 _ (s.pair p - 1#16) p⟩

/-- R292: the pair is read before HL is written, so DAD H doubles HL. -/
theorem exec_dad_adds (s : State) (p : RegPair) :
    ∃ t, exec (.dad p) s = .next t ∧ t.pair .hl = s.pair .hl + s.pair p ∧
      t.flag .cy = decide (65535 < (s.pair .hl).toNat + (s.pair p).toNat) ∧ t.pc = s.pc + 1#16 ∧
      Frame [.reg .h, .reg .l, .flag .cy] [] s t := by
  rw [exec_dad, completes_eq, fetched_pair]
  exact ⟨_, rfl, addHl_completed s 1 _ (s.pair p)⟩

/-- Settles O34: counting down modulo 65536 is adding 65535. -/
theorem inxAndDcxCountPairs : Obligations.InxAndDcxCountPairs := by
  intro s p
  obtain ⟨t, hexec, hpair, hrest⟩ := exec_inx_counts s p
  obtain ⟨u, uexec, upair, urest⟩ := exec_dcx_counts s p
  have hup : (t.pair p).toNat = ((s.pair p).toNat + 1) % 65536 := by
    rw [hpair]
    exact BitVec.toNat_add (s.pair p) 1#16
  have hdown : (u.pair p).toNat = ((s.pair p).toNat + 65535) % 65536 := by
    rw [upair, Nat.add_comm]
    exact BitVec.toNat_sub (s.pair p) 1#16
  exact ⟨⟨rfl, t, hexec, hup, hrest⟩, ⟨rfl, u, uexec, hdown, urest⟩⟩

/-- Settles O35: the sum in HL is the sum of words, and CY is decided on the unbounded sum. -/
theorem dadAddsPairToHl : Obligations.DadAddsPairToHl := by
  intro s p
  obtain ⟨t, hexec, hpair, hrest⟩ := exec_dad_adds s p
  have hsum : (t.pair .hl).toNat = ((s.pair .hl).toNat + (s.pair p).toNat) % 65536 := by
    rw [hpair]
    exact BitVec.toNat_add (s.pair .hl) (s.pair p)
  exact ⟨rfl, t, hexec, hsum, hrest⟩

end Sys2Proof.Machine
end

section
/-! PROOFS. 45_stack.md: PUSH, POP and SPHL (R300, R302, R303, R306). What a push, a pop and a write of SP leave after the
fetch, for any pair; a register pair is then its two halves, and PSW is A over the flag byte. -/

open Sys2Proof Sys2Proof.Claims

namespace Sys2Proof.Machine

/-! ### PUSH -/

@[simp] theorem fetched_stackPair (s : State) (n : Nat) (p : StackPair) :
    (s.fetched n).stackPair p = s.stackPair p := by
  cases p <;> rfl

section Completed

variable (s : State) (n c : Nat) (v : Word)

theorem push16_completed :
    (((s.fetched n).push16 v).report c).read (s.sp - 1#16) = hiByte v ∧
      (((s.fetched n).push16 v).report c).read (s.sp - 2#16) = loByte v ∧
      (((s.fetched n).push16 v).report c).sp = s.sp - 2#16 ∧
      (((s.fetched n).push16 v).report c).pc = s.pc + BitVec.ofNat 16 n ∧
      Frame [.sp] (pushed s) s (((s.fetched n).push16 v).report c) :=
  ⟨push16_read_high (s.fetched n) v, push16_read_low (s.fetched n) v, push16_sp (s.fetched n) v,
    (push16_touches (s.fetched n) v).completedPcFrame c⟩

theorem setSp_completed :
    (((s.fetched n).setSp v).report c).sp = v ∧
      (((s.fetched n).setSp v).report c).pc = s.pc + BitVec.ofNat 16 n ∧
      Frame [.sp] [] s (((s.fetched n).setSp v).report c) :=
  ⟨rfl, (setSp_touches (s.fetched n) v).completedPcFrame c⟩

end Completed

/-- R300, R301: the two halves of what is pushed lie just below the old SP. -/
theorem exec_push_stores (s : State) (p : StackPair) {hi lo : Byte} (hpair : s.stackPair p = joinBytes hi lo) :
    ∃ t, exec (.push p) s = .next t ∧ t.read (s.sp - 1#16) = hi ∧ t.read (s.sp - 2#16) = lo ∧
      t.sp = s.sp - 2#16 ∧ t.pc = s.pc + 1#16 ∧ Frame [.sp] (pushed s) s t := by
  obtain ⟨hhigh, hlow, hrest⟩ := push16_completed s 1 (cyclesOf s (.push p)) (joinBytes hi lo)
  rw [hiByte_joinBytes] at hhigh
  rw [loByte_joinBytes] at hlow
  rw [exec_push, completes_eq, fetched_stackPair, hpair]
  exact ⟨_, rfl, hhigh, hlow, hrest⟩

/-- Settles O36: each register pair is the join of its two registers. -/
theorem pushStoresAPair : Obligations.PushStoresAPair := fun s =>
  ⟨⟨rfl, exec_push_stores s .bc rfl⟩, ⟨rfl, exec_push_stores s .de rfl⟩, ⟨rfl, exec_push_stores s .hl rfl⟩⟩

/-! ### POP -/

@[simp] theorem setStackPair_sp (s : State) (p : StackPair) (v : Word) : (s.setStackPair p v).sp = s.sp := by
  cases p <;> rfl

/-- R302, R303: the registers and flags are those of the word at SP put into the pair, whatever the order `w` in which
the written places are listed. -/
theorem exec_pop_loads (s : State) (p : StackPair) {w : List Loc} (hw : (.sp :: stackPairLocs p).Perm w) :
    ∃ t, exec (.pop p) s = .next t ∧ t.regs = (s.setStackPair p s.top16).regs ∧
      t.flags = (s.setStackPair p s.top16).flags ∧ t.sp = s.sp + 2#16 ∧ t.pc = s.pc + 1#16 ∧ Frame w [] s t := by
  have htouch := ((drop16_touches (s.fetched 1)).trans (setStackPair_touches _ p s.top16)).congr
    (fun _ => hw.mem_iff) (fun _ ha => ha)
  have hsp := setStackPair_sp (s.fetched 1).drop16 p s.top16
  refine ⟨_, exec_pop p s, ?_, ?_, hsp, htouch.completedPcFrame _⟩
  · cases p <;> rfl
  · cases p <;> rfl

/-- R302: a pair of two registers takes the high byte of the popped word in one and the low byte in the other. -/
theorem exec_pop_loads_registers (s : State) (p : StackPair) (hi lo : Reg) (hne : hi ≠ lo)
    (hlocs : stackPairLocs p = [.reg hi, .reg lo])
    (hset : ∀ v, s.setStackPair p v = (s.setReg hi (hiByte v)).setReg lo (loByte v)) :
    ∃ t, exec (.pop p) s = .next t ∧ t.reg lo = s.read s.sp ∧ t.reg hi = s.read (s.sp + 1#16) ∧
      t.sp = s.sp + 2#16 ∧ t.pc = s.pc + 1#16 ∧ Frame [.reg hi, .reg lo, .sp] [] s t := by
  have hperm : (.sp :: stackPairLocs p).Perm [.reg hi, .reg lo, .sp] := by
    rw [hlocs]
    exact (List.perm_append_singleton Loc.sp [.reg hi, .reg lo]).symm
  obtain ⟨t, hexec, hregs, -, hrest⟩ := exec_pop_loads s p hperm
  have hreg (r : Reg) : t.reg r = (s.setStackPair p s.top16).reg r := congrArg (Regs.get · r) hregs
  have hlow : t.reg lo = loByte s.top16 := by
    rw [hreg, hset, setReg_reg, if_pos rfl]
  have hhigh : t.reg hi = hiByte s.top16 := by
    rw [hreg, hset, setReg_reg, if_neg hne, setReg_reg, if_pos rfl]
  exact ⟨t, hexec, hlow.trans (loByte_joinBytes _ _), hhigh.trans (hiByte_joinBytes _ _), hrest⟩

/-- Settles O38: each of the three pairs is two registers. -/
theorem popLoadsAPair : Obligations.PopLoadsAPair := fun s =>
  ⟨⟨rfl, exec_pop_loads_registers s .bc .b .c (by decide) rfl fun _ => rfl⟩,
   ⟨rfl, exec_pop_loads_registers s .de .d .e (by decide) rfl fun _ => rfl⟩,
   ⟨rfl, exec_pop_loads_registers s .hl .h .l (by decide) rfl fun _ => rfl⟩⟩

/-! ### POP PSW -/

/-- The bits of the flag byte, from bit 0 up (10_state.md R36). -/
theorem toByte_getLsbD (g : Flags) (i : Nat) :
    g.toByte.getLsbD i = [g.cy, true, g.p, false, g.ac, false, g.z, g.s].getD i false := by
  simp only [Flags.toByte, BitVec.getLsbD_append]
  rcases i with _ | _ | _ | _ | _ | _ | _ | _ | i <;> simp

theorem setFlagByte_flags (s : State) (b : Byte) :
    (s.setFlagByte b).flags =
      { s := b.getLsbD 7, z := b.getLsbD 6, ac := b.getLsbD 4, p := b.getLsbD 2, cy := b.getLsbD 0 } := rfl

/-- Bits 5, 3 and 1 of a loaded byte are lost: the mask D5 clears them and the bit 02 is fixed (R303, R36). -/
theorem setFlagByte_toByte (s : State) (b : Byte) :
    (s.setFlagByte b).flags.toByte = (b &&& 0xD5#8) ||| 0x02#8 := by
  refine BitVec.eq_of_getLsbD_eq fun i hi => ?_
  rw [toByte_getLsbD, setFlagByte_flags]
  interval_cases i <;> simp

/-- Settles O39: A is the high byte of the popped word, and the flags are those of its low byte. -/
theorem popPswLoadsTheFlags : Obligations.PopPswLoadsTheFlags := by
  intro s
  obtain ⟨t, hexec, hregs, hflags, hrest⟩ := exec_pop_loads s .psw (List.Perm.refl _)
  have hlow : loByte s.top16 = s.read s.sp := loByte_joinBytes _ _
  have ha : t.reg .a = hiByte s.top16 := congrArg Regs.a hregs
  have hbyte : t.flags = (s.setFlagByte (s.read s.sp)).flags := by
    rw [hflags, ← hlow]
    rfl
  have hflag (f : Flag) : t.flag f = (s.setFlagByte (s.read s.sp)).flags.get f := congrArg (Flags.get · f) hbyte
  have hfixed := (congrArg Flags.toByte hbyte).trans (setFlagByte_toByte s (s.read s.sp))
  exact ⟨rfl, t, hexec, ha.trans (hiByte_joinBytes _ _), hflag .s, hflag .z, hflag .ac, hflag .p, hflag .cy, hfixed,
    hrest⟩

/-! ### SPHL -/

/-- Settles O41: SP takes the word whose halves are H and L. -/
theorem sphlCopiesHlToSp : Obligations.SphlCopiesHlToSp := by
  intro s
  obtain ⟨hsp, hrest⟩ := setSp_completed s 1 (cyclesOf s .sphl) (s.pair .hl)
  have hword := (congrArg BitVec.toNat hsp).trans (joinBytes_toNat (s.reg .h) (s.reg .l))
  exact ⟨rfl, _, exec_sphl s, hword, hrest⟩

end Sys2Proof.Machine
end

section
/-! PROOFS. 47_machine_control.md: NOP (R370). Its rule has no effect of its own: what completes is the fetched state. -/

open Sys2Proof Sys2Proof.Claims

namespace Sys2Proof.Machine

/-- Settles O47: the fetch alone moves PC past the byte and clears EI_SHADOW, and NOP's effect touches nothing. -/
theorem nopOnlyAdvancesPc : Obligations.NopOnlyAdvancesPc := by
  intro s
  obtain ⟨hpc, hframe⟩ := (Touches.refl (s.fetched 1)).completedPcFrame (cyclesOf s .nop)
  have hshadow : ((s.fetched 1).report (cyclesOf s .nop)).eiShadow = false := by
    rw [report_eiShadow, fetched_eiShadow]
  exact ⟨rfl, _, exec_nop s, hpc, hshadow, hframe⟩

end Sys2Proof.Machine
end

section
/-! PROOFS. 70_reset_and_hazards.md R455: no result depends on a cycle count. Whatever the state's reported count
and cycle table are, every operation does the same to the rest of the state, every test answers the same, and so does
every case of a step (40_execute.md R151). -/

open Sys2Proof Sys2Proof.Claims

namespace Sys2Proof.Machine

/-- The second outcome is the first one recounted: a completed step may report any count, a fault or a refusal leaves
the state with the count `n`. -/
def RecountsTo (n : Nat) (rows : List CycleRow) (o o' : Host.Outcome State Fault Refusal) : Prop :=
  match o with
  | .next t => ∃ k, o' = .next (recounted t k rows)
  | .fault r => o' = .fault (recountedFault n rows r)
  | .refused r => o' = .refused (recountedRefusal n rows r)

/-- An effect that does the same to the rest of the state whatever the reported count and the cycle table are. -/
def Recountable (f : State → State) : Prop :=
  ∀ (s : State) (n : Nat) (rows : List CycleRow), f (recounted s n rows) = recounted (f s) n rows

/-- A conditional transfer is made or not by the flags, which no count changes. -/
theorem Recountable.doIf {transfer : State → State} (h : Recountable transfer) (cond : Cond) :
    Recountable fun s => s.doIf cond transfer := by
  intro s n rows
  have hcond : (recounted s n rows).holds cond = s.holds cond := rfl
  simp only [State.doIf, hcond]
  split
  · exact h s n rows
  · rfl

section Recounted

variable (s : State) (n : Nat) (rows : List CycleRow)

/-! ### Operations on a recounted state -/

theorem setReg_recounted (r : Reg) (v : Byte) :
    (recounted s n rows).setReg r v = recounted (s.setReg r v) n rows := rfl

theorem setFlag_recounted (f : Flag) (b : Bool) :
    (recounted s n rows).setFlag f b = recounted (s.setFlag f b) n rows := rfl

theorem setDst_recounted (dst : Operand) (v : Byte) :
    (recounted s n rows).setDst dst v = recounted (s.setDst dst v) n rows := by
  cases dst <;> rfl

theorem setPair_recounted (p : RegPair) (v : Word) :
    (recounted s n rows).setPair p v = recounted (s.setPair p v) n rows := by
  cases p <;> rfl

theorem szp_recounted (v : Byte) : (recounted s n rows).szp v = recounted (s.szp v) n rows := by
  simp only [State.szp, setFlag_recounted]

theorem aluFlags_recounted (r : AluResult) :
    (recounted s n rows).aluFlags r = recounted (s.aluFlags r) n rows := by
  simp only [State.aluFlags, setFlag_recounted, szp_recounted]

theorem alu_recounted (r : AluResult) : (recounted s n rows).alu r = recounted (s.alu r) n rows := by
  simp only [State.alu, setReg_recounted, aluFlags_recounted]

/-- What INR and DCR are made of: a byte to the operand, then AC, S, Z and P. -/
theorem counted_recounted (dst : Operand) (v : Byte) (ac : Bool) :
    (((recounted s n rows).setDst dst v).setFlag .ac ac).szp v =
      recounted (((s.setDst dst v).setFlag .ac ac).szp v) n rows := by
  rw [setDst_recounted, setFlag_recounted, szp_recounted]

theorem setFlagByte_recounted (b : Byte) :
    (recounted s n rows).setFlagByte b = recounted (s.setFlagByte b) n rows := by
  simp only [State.setFlagByte, setFlag_recounted]

theorem setStackPair_recounted (p : StackPair) (v : Word) :
    (recounted s n rows).setStackPair p v = recounted (s.setStackPair p v) n rows := by
  cases p
  · exact setPair_recounted s n rows .bc v
  · exact setPair_recounted s n rows .de v
  · exact setPair_recounted s n rows .hl v
  · exact setFlagByte_recounted (s.setReg .a (hiByte v)) n rows (loByte v)

theorem toFault_recounted (r : FaultRecord) :
    r.toFault (recounted s n rows) = recountedFault n rows (r.toFault s) := by
  rcases r with ⟨_ | _ | _, _, _⟩ <;> rfl

/-! ### What an instruction answers -/

theorem raise_recounts (kind : FaultKind) (op : Byte) :
    RecountsTo n rows (raise kind op s) (raise kind op (recounted s n rows)) :=
  congrArg Host.Outcome.fault (toFault_recounted (s.faulted kind op) n rows { kind := kind, op := op, pc := s.pc })

variable {i : Instr} {f : State → State}

/-- The count is looked up beside the effect, and only reported. -/
theorem completes_recounts (hf : Recountable f) :
    RecountsTo n rows (completes i s f) (completes i (recounted s n rows) f) := by
  refine ⟨cyclesOf (recounted s n rows) i, ?_⟩
  have heffect : f ((recounted s n rows).fetched i.length) = recounted (f (s.fetched i.length)) n rows :=
    hf (s.fetched i.length) n rows
  rw [completes_eq, heffect]
  rfl

theorem completesIfKnown_recounts (hf : Recountable f) :
    RecountsTo n rows (completesIfKnown i s f) (completesIfKnown i (recounted s n rows) f) := by
  cases h : i.wellFormed
  · rw [completesIfKnown_of_not i s f h, completesIfKnown_of_not i _ f h]
    exact raise_recounts s n rows .unhandledOperand i.opcode
  · rw [completesIfKnown_of_wellFormed i s f h, completesIfKnown_of_wellFormed i _ f h]
    exact completes_recounts s n rows hf

variable {s n rows}

theorem recounts_of_completes (hexec : ∀ s, exec i s = completes i s f) (hf : Recountable f) :
    RecountsTo n rows (exec i s) (exec i (recounted s n rows)) := by
  rw [hexec, hexec]
  exact completes_recounts s n rows hf

theorem recounts_of_completesIfKnown (hexec : ∀ s, exec i s = completesIfKnown i s f) (hf : Recountable f) :
    RecountsTo n rows (exec i s) (exec i (recounted s n rows)) := by
  rw [hexec, hexec]
  exact completesIfKnown_recounts s n rows hf

theorem recounts_of_doIf {cond : Cond} (hexec : ∀ s, exec i s = completes i s fun s => s.doIf cond f)
    (hf : Recountable f) : RecountsTo n rows (exec i s) (exec i (recounted s n rows)) :=
  recounts_of_completes hexec (hf.doIf cond)

variable (s n rows)

/-- Case by case, the rule on a recounted state computes to the recounted rule, once an operand form or a result to be
written to the flags is set apart. -/
theorem exec_recounts (i : Instr) : RecountsTo n rows (exec i s) (exec i (recounted s n rows)) := by
  cases i with
  | add src => exact recounts_of_completes (exec_add src) fun s n rows => alu_recounted s n rows _
  | adi d8 => exact recounts_of_completes (exec_adi d8) fun s n rows => alu_recounted s n rows _
  | adc src => exact recounts_of_completes (exec_adc src) fun s n rows => alu_recounted s n rows _
  | aci d8 => exact recounts_of_completes (exec_aci d8) fun s n rows => alu_recounted s n rows _
  | sub src => exact recounts_of_completes (exec_sub src) fun s n rows => alu_recounted s n rows _
  | sui d8 => exact recounts_of_completes (exec_sui d8) fun s n rows => alu_recounted s n rows _
  | sbb src => exact recounts_of_completes (exec_sbb src) fun s n rows => alu_recounted s n rows _
  | sbi d8 => exact recounts_of_completes (exec_sbi d8) fun s n rows => alu_recounted s n rows _
  | cmp src => exact recounts_of_completes (exec_cmp src) fun s n rows => aluFlags_recounted s n rows _
  | cpi d8 => exact recounts_of_completes (exec_cpi d8) fun s n rows => aluFlags_recounted s n rows _
  | inr dst => exact recounts_of_completes (exec_inr dst) fun s n rows => counted_recounted s n rows dst _ _
  | dcr dst => exact recounts_of_completes (exec_dcr dst) fun s n rows => counted_recounted s n rows dst _ _
  | daa => exact recounts_of_completes exec_daa fun s n rows => alu_recounted s n rows _
  | ana src => exact recounts_of_completes (exec_ana src) fun s n rows => alu_recounted s n rows _
  | ani d8 => exact recounts_of_completes (exec_ani d8) fun s n rows => alu_recounted s n rows _
  | xra src => exact recounts_of_completes (exec_xra src) fun s n rows => alu_recounted s n rows _
  | xri d8 => exact recounts_of_completes (exec_xri d8) fun s n rows => alu_recounted s n rows _
  | ora src => exact recounts_of_completes (exec_ora src) fun s n rows => alu_recounted s n rows _
  | ori d8 => exact recounts_of_completes (exec_ori d8) fun s n rows => alu_recounted s n rows _
  | cma => exact recounts_of_completes exec_cma fun _ _ _ => rfl
  | cmc => exact recounts_of_completes exec_cmc fun _ _ _ => rfl
  | stc => exact recounts_of_completes exec_stc fun _ _ _ => rfl
  | rlc => exact recounts_of_completes exec_rlc fun _ _ _ => rfl
  | rrc => exact recounts_of_completes exec_rrc fun _ _ _ => rfl
  | ral => exact recounts_of_completes exec_ral fun _ _ _ => rfl
  | rar => exact recounts_of_completes exec_rar fun _ _ _ => rfl
  | mov dst src => exact recounts_of_completesIfKnown (exec_mov dst src) fun s n rows => setDst_recounted s n rows dst _
  | mvi dst d8 => exact recounts_of_completes (exec_mvi dst d8) fun s n rows => setDst_recounted s n rows dst d8
  | lxi pair d16 => exact recounts_of_completes (exec_lxi pair d16) fun s n rows => setPair_recounted s n rows pair _
  | lda a16 => exact recounts_of_completes (exec_lda a16) fun _ _ _ => rfl
  | sta a16 => exact recounts_of_completes (exec_sta a16) fun _ _ _ => rfl
  | lhld a16 => exact recounts_of_completes (exec_lhld a16) fun _ _ _ => rfl
  | shld a16 => exact recounts_of_completes (exec_shld a16) fun _ _ _ => rfl
  | ldax pair => exact recounts_of_completesIfKnown (exec_ldax pair) fun _ _ _ => rfl
  | stax pair => exact recounts_of_completesIfKnown (exec_stax pair) fun _ _ _ => rfl
  | xchg =>
    exact recounts_of_completes exec_xchg fun s n rows =>
      setPair_recounted (s.setPair .hl (s.pair .de)) n rows .de (s.pair .hl)
  | inx pair => exact recounts_of_completes (exec_inx pair) fun s n rows => setPair_recounted s n rows pair _
  | dcx pair => exact recounts_of_completes (exec_dcx pair) fun s n rows => setPair_recounted s n rows pair _
  | dad pair => exact recounts_of_completes (exec_dad pair) fun _ _ _ => rfl
  | push pair => exact recounts_of_completes (exec_push pair) fun _ _ _ => rfl
  | pop pair =>
    exact recounts_of_completes (exec_pop pair) fun s n rows =>
      setStackPair_recounted s.drop16 n rows pair s.top16
  | xthl =>
    exact recounts_of_completes exec_xthl fun s n rows =>
      setPair_recounted (s.writeWord s.sp (s.pair .hl)) n rows .hl (s.readWord s.sp)
  | sphl => exact recounts_of_completes exec_sphl fun _ _ _ => rfl
  | jmp a16 => exact recounts_of_completes (exec_jmp a16) fun _ _ _ => rfl
  | jnz a16 => exact recounts_of_doIf (exec_jnz a16) fun _ _ _ => rfl
  | jz a16 => exact recounts_of_doIf (exec_jz a16) fun _ _ _ => rfl
  | jnc a16 => exact recounts_of_doIf (exec_jnc a16) fun _ _ _ => rfl
  | jc a16 => exact recounts_of_doIf (exec_jc a16) fun _ _ _ => rfl
  | jpo a16 => exact recounts_of_doIf (exec_jpo a16) fun _ _ _ => rfl
  | jpe a16 => exact recounts_of_doIf (exec_jpe a16) fun _ _ _ => rfl
  | jp a16 => exact recounts_of_doIf (exec_jp a16) fun _ _ _ => rfl
  | jm a16 => exact recounts_of_doIf (exec_jm a16) fun _ _ _ => rfl
  | call a16 => exact recounts_of_completes (exec_call a16) fun _ _ _ => rfl
  | cnz a16 => exact recounts_of_doIf (exec_cnz a16) fun _ _ _ => rfl
  | cz a16 => exact recounts_of_doIf (exec_cz a16) fun _ _ _ => rfl
  | cnc a16 => exact recounts_of_doIf (exec_cnc a16) fun _ _ _ => rfl
  | cc a16 => exact recounts_of_doIf (exec_cc a16) fun _ _ _ => rfl
  | cpo a16 => exact recounts_of_doIf (exec_cpo a16) fun _ _ _ => rfl
  | cpe a16 => exact recounts_of_doIf (exec_cpe a16) fun _ _ _ => rfl
  | cp a16 => exact recounts_of_doIf (exec_cp a16) fun _ _ _ => rfl
  | cm a16 => exact recounts_of_doIf (exec_cm a16) fun _ _ _ => rfl
  | ret => exact recounts_of_completes exec_ret fun _ _ _ => rfl
  | rnz => exact recounts_of_doIf exec_rnz fun _ _ _ => rfl
  | rz => exact recounts_of_doIf exec_rz fun _ _ _ => rfl
  | rnc => exact recounts_of_doIf exec_rnc fun _ _ _ => rfl
  | rc => exact recounts_of_doIf exec_rc fun _ _ _ => rfl
  | rpo => exact recounts_of_doIf exec_rpo fun _ _ _ => rfl
  | rpe => exact recounts_of_doIf exec_rpe fun _ _ _ => rfl
  | rp => exact recounts_of_doIf exec_rp fun _ _ _ => rfl
  | rm => exact recounts_of_doIf exec_rm fun _ _ _ => rfl
  | rst n => exact recounts_of_completes (exec_rst n) fun _ _ _ => rfl
  | pchl => exact recounts_of_completes exec_pchl fun _ _ _ => rfl
  | nop => exact recounts_of_completes exec_nop fun _ _ _ => rfl
  | hlt => exact recounts_of_completes exec_hlt fun _ _ _ => rfl
  | ei => exact recounts_of_completes exec_ei fun _ _ _ => rfl
  | di => exact recounts_of_completes exec_di fun _ _ _ => rfl
  | inp p8 => exact recounts_of_completes (exec_inp p8) fun _ _ _ => rfl
  | out p8 => exact recounts_of_completes (exec_out p8) fun _ _ _ => rfl

/-! ### Every case of a step

The tests of a step (the fetch, `refusesRow`, `readsUnset`, the request, ...) read neither a count nor the table, so
what one answers at `s` it answers at `recounted s n rows` by computation. -/

theorem instructionStep_recounts :
    RecountsTo n rows (instructionStep s) (instructionStep (recounted s n rows)) := by
  rcases hf : s.fetch with _ | i
  · rw [instructionStep_of_none hf, instructionStep_of_none (s := recounted s n rows) hf]
    exact raise_recounts s n rows .unrecognizedOpcode (s.read s.pc)
  · cases hr : refusesRow s i
    · cases hu : readsUnset s i
      · rw [instructionStep_of_exec hf hr hu, instructionStep_of_exec (s := recounted s n rows) hf hr hu]
        exact exec_recounts s n rows i
      · rw [instructionStep_of_readsUnset hf hr hu, instructionStep_of_readsUnset (s := recounted s n rows) hf hr hu]
        exact raise_recounts s n rows .uninitializedRead (s.read s.pc)
    · rw [instructionStep_of_refuses hf hr, instructionStep_of_refuses (s := recounted s n rows) hf hr]
      exact rfl

theorem uninterruptedStep_recounts :
    RecountsTo n rows (uninterruptedStep s) (uninterruptedStep (recounted s n rows)) := by
  cases hh : s.halted
  · rw [uninterruptedStep_of_not_halted hh, uninterruptedStep_of_not_halted (s := recounted s n rows) hh]
    exact instructionStep_recounts s n rows
  · rw [uninterruptedStep_of_halted hh, uninterruptedStep_of_halted (s := recounted s n rows) hh]
    exact ⟨Config.haltIdleCycles, rfl⟩

theorem acceptanceStep_recounts (v : BitVec 3) :
    RecountsTo n rows (acceptanceStep v s) (acceptanceStep v (recounted s n rows)) := by
  have hlacks : (recounted s n rows).lacks [.sp] = s.lacks [.sp] := rfl
  unfold acceptanceStep
  rw [hlacks]
  split
  · exact rfl
  · exact ⟨acceptanceCycles, rfl⟩

theorem runningStep_recounts : RecountsTo n rows (runningStep s) (runningStep (recounted s n rows)) := by
  by_cases hn : s.request = none ∨ s.acceptsInterrupt = false
  · rw [runningStep_of_not hn, runningStep_of_not (s := recounted s n rows) hn]
    exact uninterruptedStep_recounts s.sampled n rows
  · rw [not_or, Bool.not_eq_false] at hn
    obtain ⟨hrequest, haccepts⟩ := hn
    obtain ⟨v, hv⟩ := Option.ne_none_iff_exists'.mp hrequest
    rw [runningStep_accepts hv haccepts, runningStep_accepts (s := recounted s n rows) hv haccepts]
    exact acceptanceStep_recounts s.sampled n rows v

theorem step_recounts : RecountsTo n rows (step s) (step (recounted s n rows)) := by
  rcases hf : s.fault with _ | r
  · cases hm : s.refusedMark
    · rw [step_of_live hf hm, step_of_live (s := recounted s n rows) hf hm]
      exact runningStep_recounts s n rows
    · rw [step_of_refusedMark hf hm, step_of_refusedMark (s := recounted s n rows) hf hm]
      exact rfl
  · rw [step_of_fault hf, step_of_fault (s := recounted s n rows) hf]
    exact congrArg Host.Outcome.fault (toFault_recounted s n rows r)

end Recounted

/-- Settles O60: the three clauses are the three outcomes of one recounted step. -/
theorem cycleCountsAreNeverRead : Obligations.CycleCountsAreNeverRead := by
  intro s n rows
  have hstep := step_recounts s n rows
  refine ⟨fun t ht => ?_, fun r hr => ?_, fun r hr => ?_⟩
  · rwa [ht] at hstep
  · rwa [hr] at hstep
  · rwa [hr] at hstep

end Sys2Proof.Machine
end

section
/-! PROOFS. 30_encoding.md: the decoder and the encoder agree (R110 to R121). From encoder to decoder instruction by
instruction, by the kind of the table row; from decoder to encoder opcode byte by opcode byte. -/

open Sys2Proof.Machine Sys2Proof.Claims

namespace Sys2Proof

/-! ### From the instruction to its bytes and back -/

/-- R116: the eight rows of RST. -/
theorem opcodeRow_rst (n : BitVec 3) : opcodeRow (Instr.rst n).opcode = .one (.rst n) := by
  obtain ⟨k, hk, rfl⟩ : ∃ k, k < 8 ∧ n = BitVec.ofNat 3 k := ⟨n.toNat, n.isLt, by simp⟩
  interval_cases k <;> rfl

/-- R123: the 63 rows of MOV; the 64th pair of operands is no instruction. -/
theorem opcodeRow_mov (dst src : Operand) (hwf : (Instr.mov dst src).wellFormed = true) :
    opcodeRow (Instr.mov dst src).opcode = .one (.mov dst src) := by
  rcases dst with r | _
  · rcases src with q | _
    · cases r <;> cases q <;> rfl
    · cases r <;> rfl
  · rcases src with q | _
    · cases q <;> rfl
    · cases hwf

/-- Settles O2: the row of every instruction's opcode is that instruction, waiting for its operand bytes. -/
theorem decodeEncodeRoundTrip : Obligations.DecodeEncodeRoundTrip := by
  intro i rest hwf
  cases i with
  | mov dst src => exact decode_one (opcodeRow_mov dst src hwf) rfl rest
  | rst n => exact decode_one (opcodeRow_rst n) rfl rest
  | add o | adc o | sub o | sbb o | cmp o | ana o | xra o | ora o | inr o | dcr o =>
    refine decode_one ?_ rfl rest
    rcases o with r | _
    · cases r <;> rfl
    · rfl
  | mvi dst d8 =>
    refine decode_byte (.mvi dst) d8 ?_ rfl rfl rest
    rcases dst with r | _
    · cases r <;> rfl
    · rfl
  | lxi pair v =>
    refine decode_word (.lxi pair) v ?_ rfl rfl rest
    cases pair <;> rfl
  | ldax pair | stax pair =>
    refine decode_one ?_ rfl rest
    cases pair
    case bc | de => rfl
    case hl | sp => cases hwf
  | inx pair | dcx pair | dad pair | push pair | pop pair =>
    refine decode_one ?_ rfl rest
    cases pair <;> rfl
  | adi d8 | aci d8 | sui d8 | sbi d8 | cpi d8 | ani d8 | xri d8 | ori d8 | inp d8 | out d8 =>
    exact decode_byte _ d8 rfl rfl rfl rest
  | lda v | sta v | lhld v | shld v | jmp v | jnz v | jz v | jnc v | jc v | jpo v | jpe v | jp v | jm v
  | call v | cnz v | cz v | cnc v | cc v | cpo v | cpe v | cp v | cm v =>
    exact decode_word _ v rfl rfl rfl rest
  | daa | cma | cmc | stc | rlc | rrc | ral | rar | xchg | xthl | sphl
  | ret | rnz | rz | rnc | rc | rpo | rpe | rp | rm | pchl | nop | hlt | ei | di =>
    exact decode_one rfl rfl rest

/-- Settles O1: each word is the encoding of its instruction. -/
theorem wordsOfEveryFamilyDecode : Obligations.WordsOfEveryFamilyDecode := by
  have hread (i : Instr) (hwf : i.wellFormed = true) : decode (encode i) = .ok (i, []) := by
    simpa using decodeEncodeRoundTrip i [] hwf
  exact ⟨hread (.mov .m (.reg .a)) rfl, hread (.add (.reg .b)) rfl, hread (.ani 0x0F#8) rfl,
    hread (.dcr (.reg .c)) rfl, hread (.mvi (.reg .a) 0x5A#8) rfl, hread (.lxi .hl 0x2345#16) rfl, hread (.dad .sp) rfl,
    hread (.ldax .de) rfl, hread (.sta 0x1234#16) rfl, hread .daa rfl, hread .rrc rfl, hread .hlt rfl,
    hread (.push .psw) rfl, hread .rnz rfl, hread (.jc 0x0200#16) rfl, hread (.cz 0x2000#16) rfl,
    hread (.jmp 0xABCD#16) rfl, hread (.rst 5) rfl, hread (.inp 0x01#8) rfl⟩

/-! ### From the bytes to the instruction and back -/

/-- A table row with its operand, if any, taken from `v`: the instruction, and the operand bytes it has used. -/
def OpcodeRow.filled (v : Word) : OpcodeRow → Option (Instr × List Byte)
  | .absent => none
  | .one i => some (i, [])
  | .byte mk => some (mk (loByte v), [loByte v])
  | .word mk => some (mk v, [loByte v, hiByte v])

/-- Row by row, the map of R120 against the formats of R111. -/
theorem filled_opcodeRow (op : Byte) (v : Word) :
    ((opcodeRow op).filled v).map (fun p => (p.1.wellFormed, encode p.1)) =
      ((opcodeRow op).filled v).map (fun p => (true, op :: p.2)) := by
  obtain ⟨k, hk, rfl⟩ : ∃ k, k < 256 ∧ op = BitVec.ofNat 8 k := ⟨op.toNat, op.isLt, by simp⟩
  interval_cases k <;> rfl

/-- What a row holds, with an operand filled in, is well formed and encodes to the row's byte and the operand. -/
theorem encode_of_filled {op : Byte} {v : Word} {i : Instr} {used : List Byte}
    (h : (opcodeRow op).filled v = some (i, used)) : i.wellFormed = true ∧ encode i = op :: used := by
  simpa [h] using filled_opcodeRow op v

/-- What `decode` accepts is a row of the table with an operand filled in, and the bytes after it. -/
theorem decode_filled {bytes rest : List Byte} {i : Instr} (h : decode bytes = .ok (i, rest)) :
    ∃ op v used, bytes = op :: used ++ rest ∧ (opcodeRow op).filled v = some (i, used) := by
  rcases bytes with _ | ⟨op, tail⟩
  · cases h
  refine ⟨op, ?_⟩
  cases hrow : opcodeRow op with
  | absent => simp [decode, hrow] at h
  | one j =>
    obtain ⟨rfl, rfl⟩ : j = i ∧ tail = rest := by simpa [decode, hrow] using h
    exact ⟨0, [], rfl, rfl⟩
  | byte mk =>
    rcases tail with _ | ⟨d8, tail⟩
    · simp [decode, hrow] at h
    obtain ⟨rfl, rfl⟩ : mk d8 = i ∧ tail = rest := by simpa [decode, hrow] using h
    exact ⟨joinBytes 0 d8, [d8], rfl, by simp [OpcodeRow.filled]⟩
  | word mk =>
    rcases tail with _ | ⟨lo, _ | ⟨hi, tail⟩⟩
    · simp [decode, hrow] at h
    · simp [decode, hrow] at h
    obtain ⟨rfl, rfl⟩ : mk (joinBytes hi lo) = i ∧ tail = rest := by simpa [decode, hrow] using h
    exact ⟨joinBytes hi lo, [lo, hi], rfl, by simp [OpcodeRow.filled]⟩

/-- Settles O3: every row of the table is the encoding of the instruction it holds. -/
theorem decodedBytesAreTheEncoding : Obligations.DecodedBytesAreTheEncoding := by
  intro bytes rest i h
  obtain ⟨op, v, used, rfl, hfilled⟩ := decode_filled h
  obtain ⟨hwf, hencode⟩ := encode_of_filled hfilled
  exact ⟨hwf, by rw [hencode]⟩

/-! ### The absent rows -/

/-- D3: the rows of R120 that hold no instruction are those of the twelve bytes. -/
theorem filled_opcodeRow_isNone (op : Byte) (v : Word) :
    ((opcodeRow op).filled v).isNone = decide (op ∈ absentBytes) := by
  obtain ⟨k, hk, rfl⟩ : ∃ k, k < 256 ∧ op = BitVec.ofNat 8 k := ⟨op.toNat, op.isLt, by simp⟩
  interval_cases k <;> rfl

theorem opcodeRow_absent_iff (op : Byte) : opcodeRow op = .absent ↔ op ∈ absentBytes := by
  rw [← decide_eq_true_iff (p := op ∈ absentBytes), ← filled_opcodeRow_isNone op 0]
  cases opcodeRow op <;> simp [OpcodeRow.filled]

theorem decode_of_absent {op : Byte} (tail : List Byte) (h : op ∈ absentBytes) :
    decode (op :: tail) = .error (.absentOpcode op) := by
  simp [decode, (opcodeRow_absent_iff op).mpr h]

/-- Three bytes are enough for every row that holds an instruction. -/
theorem decode_of_not_absent {op : Byte} (a b : Byte) (h : op ∉ absentBytes) :
    ∃ i rest, decode [op, a, b] = .ok (i, rest) := by
  rw [← opcodeRow_absent_iff] at h
  cases hrow : opcodeRow op with
  | absent => exact absurd hrow h
  | one i => exact ⟨i, [a, b], by simp [decode, hrow]⟩
  | byte mk => exact ⟨mk a, [b], by simp [decode, hrow]⟩
  | word mk => exact ⟨mk (joinBytes b a), [], by simp [decode, hrow]⟩

/-- Settles O4: a byte that decodes does not answer that it is absent. -/
theorem exactlyTwelveOpcodesAreAbsent : Obligations.ExactlyTwelveOpcodesAreAbsent := by
  intro op a b
  refine ⟨⟨fun herror => ?_, decode_of_absent [a, b]⟩, decode_of_not_absent a b⟩
  by_contra hpresent
  obtain ⟨i, rest, hok⟩ := decode_of_not_absent a b hpresent
  rw [hok] at herror
  cases herror

end Sys2Proof
end

section
/-! PROOFS. 40_execute.md: what every completed instruction does (R150, R156), once for all 78: the places it gives a
value, and what it leaves as it was. The invariants of instructions and steps are read off it. -/

open Sys2Proof Sys2Proof.Claims

namespace Sys2Proof.Machine

/-- From `s` to `t` exactly the places of `writes` were given a value and EI_SHADOW was set to `shadow`; the flags
outside `writes`, the fault and refusal marks and the parameters are unchanged, events were only added, and memory stays
in canonical form. -/
structure Effect (writes : List Loc) (shadow : Bool) (s t : State) : Prop where
  flags : ∀ f, Loc.flag f ∉ writes → t.flag f = s.flag f
  marks : ∀ l, l ∈ t.unset ↔ l ∈ s.unset ∧ l ∉ writes
  eiShadow : t.eiShadow = shadow
  fault : t.fault = s.fault
  refusedMark : t.refusedMark = s.refusedMark
  params : t.params = s.params
  events : s.events <+: t.events
  memWf : s.mem.wf = true → t.mem.wf = true

section Effects

variable {s t : State} {w x : List Loc} {m : List Word} {b : Bool}

theorem Touches.effect (h : Touches w m s t) : Effect w s.eiShadow s t where
  flags := h.keeps.flags
  marks := h.marks
  eiShadow := h.eiShadow
  fault := h.control.fault
  refusedMark := h.control.refusedMark
  params := h.control.params
  events := h.io.events ▸ List.prefix_rfl
  memWf := h.memWf

theorem Effect.congr (h : Effect w b s t) (hw : ∀ l, l ∈ w ↔ l ∈ x) : Effect x b s t :=
  { h with
    flags := fun f hf => h.flags f (by rwa [hw])
    marks := fun l => by rw [h.marks, hw] }

/-- PC is no place of `Loc`. -/
theorem Effect.setPc (h : Effect w b s t) (v : Word) : Effect w b s (t.setPc v) := { h with }

/-- A conditional jump gives no place a value, taken or not. -/
theorem jump_effect (cond : Cond) (a : Word) : Effect [] s.eiShadow s (s.doIf cond fun s => s.jump a) := by
  rw [State.doIf]
  split
  · exact (Touches.refl s).effect.setPc a
  · exact (Touches.refl s).effect

theorem call_effect (a : Word) : Effect [.sp] s.eiShadow s (s.call a) :=
  (push16_touches s s.pc).effect.setPc a

theorem returned_effect : Effect [.sp] s.eiShadow s s.returned :=
  (drop16_touches s).effect.setPc s.top16

/-- A conditional transfer that writes SP does so only when it is taken (46_control_flow.md R320). -/
theorem Effect.doIf {transfer : State → State} (cond : Cond) (h : Effect [.sp] s.eiShadow s (transfer s)) :
    Effect (spIf (s.holds cond)) s.eiShadow s (s.doIf cond transfer) := by
  rw [State.doIf]
  cases s.holds cond
  · exact (Touches.refl s).effect
  · exact h

theorem callIf_effect (s : State) (cond : Cond) (a : Word) :
    Effect (spIf (s.holds cond)) s.eiShadow s (s.doIf cond fun s => s.call a) :=
  Effect.doIf cond (call_effect a)

theorem returnIf_effect (s : State) (cond : Cond) :
    Effect (spIf (s.holds cond)) s.eiShadow s (s.doIf cond State.returned) :=
  Effect.doIf cond returned_effect

theorem ioIn_effect (p v : Byte) : Effect [.reg .a] s.eiShadow s ((s.ioIn p).setReg .a v) :=
  { (setReg_touches (s.ioIn p) .a v).effect with events := List.prefix_append _ _ }

theorem ioOut_effect (p v : Byte) : Effect [] s.eiShadow s (s.ioOut p v) :=
  { (Touches.refl s).effect with events := List.prefix_append _ _ }

/-- The places INR and DCR write, in the order of the statements. -/
theorem mem_countLocs_iff (d : Operand) (l : Loc) :
    l ∈ operandLocs d ++ [.flag .ac, .flag .s, .flag .z, .flag .p] ↔ l ∈ operandLocs d ++ countFlags := by
  have hperm : [Loc.flag .ac, .flag .s, .flag .z, .flag .p].Perm countFlags := by decide
  rw [List.mem_append, List.mem_append, hperm.mem_iff]

/-- A rotation writes A and CY, in the order of the statements. -/
theorem rotate_effect {v : Byte} {c : Bool} : Effect [.reg .a, .flag .cy] s.eiShadow s (s.rotate v c) :=
  (rotate_touches s v c).effect.congr fun _ => (List.Perm.swap _ _ []).mem_iff

variable {i : Instr} {f : State → State} {o : Host.Outcome State Fault Refusal}

/-- Fetching and reporting change nothing of an effect but that EI_SHADOW is 0 before it (R156). -/
theorem effect_of_completes (ho : o = completes i s f) (hi : decide (i = .ei) = false) (h : o = .next t)
    (hf : Effect w (s.fetched i.length).eiShadow (s.fetched i.length) (f (s.fetched i.length))) :
    Effect w (decide (i = .ei)) s t := by
  rw [ho, completes_eq] at h
  cases h
  rw [hi]
  exact { hf with }

theorem completes_of_completesIfKnown (h : completesIfKnown i s f = .next t) : completes i s f = .next t := by
  cases hwf : i.wellFormed
  · rw [completesIfKnown_of_not i s f hwf] at h
    cases h
  · rwa [completesIfKnown_of_wellFormed i s f hwf] at h

/-- What a completed instruction does, by its rule's shared operation. -/
theorem exec_effect (h : exec i s = .next t) : Effect (writesOf s i) (decide (i = .ei)) s t := by
  cases i with
  | add src => exact effect_of_completes (exec_add src s) rfl h (alu_touches _ _).effect
  | adc src => exact effect_of_completes (exec_adc src s) rfl h (alu_touches _ _).effect
  | sub src => exact effect_of_completes (exec_sub src s) rfl h (alu_touches _ _).effect
  | sbb src => exact effect_of_completes (exec_sbb src s) rfl h (alu_touches _ _).effect
  | ana src => exact effect_of_completes (exec_ana src s) rfl h (alu_touches _ _).effect
  | xra src => exact effect_of_completes (exec_xra src s) rfl h (alu_touches _ _).effect
  | ora src => exact effect_of_completes (exec_ora src s) rfl h (alu_touches _ _).effect
  | adi d8 => exact effect_of_completes (exec_adi d8 s) rfl h (alu_touches _ _).effect
  | aci d8 => exact effect_of_completes (exec_aci d8 s) rfl h (alu_touches _ _).effect
  | sui d8 => exact effect_of_completes (exec_sui d8 s) rfl h (alu_touches _ _).effect
  | sbi d8 => exact effect_of_completes (exec_sbi d8 s) rfl h (alu_touches _ _).effect
  | ani d8 => exact effect_of_completes (exec_ani d8 s) rfl h (alu_touches _ _).effect
  | xri d8 => exact effect_of_completes (exec_xri d8 s) rfl h (alu_touches _ _).effect
  | ori d8 => exact effect_of_completes (exec_ori d8 s) rfl h (alu_touches _ _).effect
  | daa => exact effect_of_completes (exec_daa s) rfl h (alu_touches _ _).effect
  | cmp src => exact effect_of_completes (exec_cmp src s) rfl h (aluFlags_touches _ _).effect
  | cpi d8 => exact effect_of_completes (exec_cpi d8 s) rfl h (aluFlags_touches _ _).effect
  | inr d =>
    have heffect := (increment_touches (s.fetched 1) d).effect.congr (mem_countLocs_iff d)
    cases d with
    | reg r => exact effect_of_completes (exec_inr (.reg r) s) rfl h heffect
    | m => exact effect_of_completes (exec_inr .m s) rfl h heffect
  | dcr d =>
    have heffect := (decrement_touches (s.fetched 1) d).effect.congr (mem_countLocs_iff d)
    cases d with
    | reg r => exact effect_of_completes (exec_dcr (.reg r) s) rfl h heffect
    | m => exact effect_of_completes (exec_dcr .m s) rfl h heffect
  | cma => exact effect_of_completes (exec_cma s) rfl h (setReg_touches _ .a _).effect
  | cmc => exact effect_of_completes (exec_cmc s) rfl h (setFlag_touches _ .cy _).effect
  | stc => exact effect_of_completes (exec_stc s) rfl h (setFlag_touches _ .cy _).effect
  | rlc => exact effect_of_completes (exec_rlc s) rfl h rotate_effect
  | rrc => exact effect_of_completes (exec_rrc s) rfl h rotate_effect
  | ral => exact effect_of_completes (exec_ral s) rfl h rotate_effect
  | rar => exact effect_of_completes (exec_rar s) rfl h rotate_effect
  | mov d src =>
    have hcompletes := completes_of_completesIfKnown h
    have heffect := (setDst_touches (s.fetched 1) d ((s.fetched 1).src src)).effect
    cases d with
    | reg r => exact effect_of_completes rfl rfl hcompletes heffect
    | m => exact effect_of_completes rfl rfl hcompletes heffect
  | mvi d d8 =>
    have heffect := (setDst_touches (s.fetched 2) d d8).effect
    cases d with
    | reg r => exact effect_of_completes (exec_mvi (.reg r) d8 s) rfl h heffect
    | m => exact effect_of_completes (exec_mvi .m d8 s) rfl h heffect
  | ldax p => exact effect_of_completes rfl rfl (completes_of_completesIfKnown h) (setReg_touches _ .a _).effect
  | stax p => exact effect_of_completes rfl rfl (completes_of_completesIfKnown h) (write_touches _ _ _).effect
  | lda a16 => exact effect_of_completes (exec_lda a16 s) rfl h (setReg_touches _ .a _).effect
  | sta a16 => exact effect_of_completes (exec_sta a16 s) rfl h (write_touches _ _ _).effect
  | lhld a16 => exact effect_of_completes (exec_lhld a16 s) rfl h (setPair_touches _ .hl _).effect
  | shld a16 => exact effect_of_completes (exec_shld a16 s) rfl h (writeWord_touches _ _ _).effect
  | lxi p v =>
    have heffect := (setPair_touches (s.fetched 3) p v).effect
    cases p <;> exact effect_of_completes (exec_lxi _ v s) rfl h heffect
  | inx p =>
    have heffect := (setPair_touches (s.fetched 1) p ((s.fetched 1).pair p + 1#16)).effect
    cases p <;> exact effect_of_completes (exec_inx _ s) rfl h heffect
  | dcx p =>
    have heffect := (setPair_touches (s.fetched 1) p ((s.fetched 1).pair p - 1#16)).effect
    cases p <;> exact effect_of_completes (exec_dcx _ s) rfl h heffect
  | dad p => exact effect_of_completes (exec_dad p s) rfl h (addHl_touches _ _).effect
  | xchg =>
    exact effect_of_completes (exec_xchg s) rfl h ((setPair_touches _ .hl _).trans (setPair_touches _ .de _)).effect
  | xthl =>
    exact effect_of_completes (exec_xthl s) rfl h ((writeWord_touches _ _ _).trans (setPair_touches _ .hl _)).effect
  | push p => exact effect_of_completes (exec_push p s) rfl h (push16_touches _ _).effect
  | pop p =>
    have heffect := ((drop16_touches (s.fetched 1)).trans (setStackPair_touches _ p (s.fetched 1).top16)).effect
    cases p <;> exact effect_of_completes (exec_pop _ s) rfl h heffect
  | sphl => exact effect_of_completes (exec_sphl s) rfl h (setSp_touches _ _).effect
  | jmp a16 => exact effect_of_completes (exec_jmp a16 s) rfl h ((Touches.refl _).effect.setPc _)
  | pchl => exact effect_of_completes (exec_pchl s) rfl h ((Touches.refl _).effect.setPc _)
  | jnz a16 => exact effect_of_completes (exec_jnz a16 s) rfl h (jump_effect _ _)
  | jz a16 => exact effect_of_completes (exec_jz a16 s) rfl h (jump_effect _ _)
  | jnc a16 => exact effect_of_completes (exec_jnc a16 s) rfl h (jump_effect _ _)
  | jc a16 => exact effect_of_completes (exec_jc a16 s) rfl h (jump_effect _ _)
  | jpo a16 => exact effect_of_completes (exec_jpo a16 s) rfl h (jump_effect _ _)
  | jpe a16 => exact effect_of_completes (exec_jpe a16 s) rfl h (jump_effect _ _)
  | jp a16 => exact effect_of_completes (exec_jp a16 s) rfl h (jump_effect _ _)
  | jm a16 => exact effect_of_completes (exec_jm a16 s) rfl h (jump_effect _ _)
  | call a16 => exact effect_of_completes (exec_call a16 s) rfl h (call_effect _)
  | rst n => exact effect_of_completes (exec_rst n s) rfl h ((push16_touches _ _).effect.setPc _)
  | ret => exact effect_of_completes (exec_ret s) rfl h returned_effect
  | cnz a16 => exact effect_of_completes (exec_cnz a16 s) rfl h (callIf_effect (s.fetched 3) .nz a16)
  | cz a16 => exact effect_of_completes (exec_cz a16 s) rfl h (callIf_effect (s.fetched 3) .z a16)
  | cnc a16 => exact effect_of_completes (exec_cnc a16 s) rfl h (callIf_effect (s.fetched 3) .nc a16)
  | cc a16 => exact effect_of_completes (exec_cc a16 s) rfl h (callIf_effect (s.fetched 3) .c a16)
  | cpo a16 => exact effect_of_completes (exec_cpo a16 s) rfl h (callIf_effect (s.fetched 3) .po a16)
  | cpe a16 => exact effect_of_completes (exec_cpe a16 s) rfl h (callIf_effect (s.fetched 3) .pe a16)
  | cp a16 => exact effect_of_completes (exec_cp a16 s) rfl h (callIf_effect (s.fetched 3) .p a16)
  | cm a16 => exact effect_of_completes (exec_cm a16 s) rfl h (callIf_effect (s.fetched 3) .m a16)
  | rnz => exact effect_of_completes (exec_rnz s) rfl h (returnIf_effect (s.fetched 1) .nz)
  | rz => exact effect_of_completes (exec_rz s) rfl h (returnIf_effect (s.fetched 1) .z)
  | rnc => exact effect_of_completes (exec_rnc s) rfl h (returnIf_effect (s.fetched 1) .nc)
  | rc => exact effect_of_completes (exec_rc s) rfl h (returnIf_effect (s.fetched 1) .c)
  | rpo => exact effect_of_completes (exec_rpo s) rfl h (returnIf_effect (s.fetched 1) .po)
  | rpe => exact effect_of_completes (exec_rpe s) rfl h (returnIf_effect (s.fetched 1) .pe)
  | rp => exact effect_of_completes (exec_rp s) rfl h (returnIf_effect (s.fetched 1) .p)
  | rm => exact effect_of_completes (exec_rm s) rfl h (returnIf_effect (s.fetched 1) .m)
  | nop => exact effect_of_completes (exec_nop s) rfl h (Touches.refl _).effect
  | hlt => exact effect_of_completes (exec_hlt s) rfl h { (Touches.refl _).effect with }
  | di => exact effect_of_completes (exec_di s) rfl h { (Touches.refl _).effect with }
  | ei =>
    rw [exec_ei, completes_eq] at h
    cases h
    exact { (Touches.refl s).effect with eiShadow := rfl }
  | inp p8 => exact effect_of_completes (exec_inp p8 s) rfl h (ioIn_effect _ _)
  | out p8 => exact effect_of_completes (exec_out p8 s) rfl h (ioOut_effect _ _)

end Effects

end Sys2Proof.Machine
end

section
/-! PROOFS. 40_execute.md and 60_exceptions.md: what instructions and steps answer and what every one keeps. One equation
per case of R151 in the words of the statements, then the obligations about steps. -/

open Sys2Proof Sys2Proof.Claims

namespace Sys2Proof.Machine

/-! ### Every instruction -/

/-- A well-formed instruction completes (60_exceptions.md R403, R404). -/
theorem exec_completes {i : Instr} (s : State) (hwf : i.wellFormed = true) : ∃ t, exec i s = .next t := by
  rcases exec_cases i s with ⟨-, f, hexec⟩ | ⟨hill, -⟩
  · exact ⟨_, hexec⟩
  · rw [hwf] at hill
    cases hill

theorem exec_of_not_wellFormed {i : Instr} (s : State) (hill : i.wellFormed = false) :
    exec i s = raise .unhandledOperand i.opcode s := by
  rcases exec_cases i s with ⟨hwf, -⟩ | ⟨-, hexec⟩
  · rw [hwf] at hill
    cases hill
  · exact hexec

/-- Settles O58: EI_SHADOW is part of what every completed instruction does. -/
theorem wellFormedInstructionsAlwaysComplete : Obligations.WellFormedInstructionsAlwaysComplete := by
  intro i s
  refine ⟨fun hwf => ?_, exec_of_not_wellFormed s⟩
  obtain ⟨t, hexec⟩ := exec_completes s hwf
  have hshadow : t.eiShadow = decide (i = .ei) := (exec_effect hexec).eiShadow
  exact ⟨t, hexec, by rw [hshadow, decide_eq_true_iff]⟩

theorem flag_notMem_spIf (f : Flag) (taken : Bool) : Loc.flag f ∉ spIf taken := by
  cases taken <;> simp [spIf]

/-- Outside the first list of R37 an instruction writes no flag but CY. -/
theorem flag_notMem_writesOf {i : Instr} (s : State) {f : Flag} (h : writesResultFlags i = false) (hf : f ≠ .cy) :
    Loc.flag f ∉ writesOf s i := by
  cases i with
  | add | adi | adc | aci | sub | sui | sbb | sbi | cmp | cpi | ana | ani | xra | xri | ora | ori | inr | dcr | daa =>
    cases h
  | pop p =>
    cases p
    case psw => cases h
    case bc | de | hl => simp [writesOf]
  | mov d _ | mvi d _ => cases d <;> simp [writesOf]
  | lxi p _ | inx p | dcx p => cases p <;> simp [writesOf]
  | cnz | cz | cnc | cc | cpo | cpe | cp | cm | rnz | rz | rnc | rc | rpo | rpe | rp | rm =>
    exact flag_notMem_spIf f _
  | _ => simp [writesOf, hf]

/-- Outside the second list of R37 an instruction does not write CY. -/
theorem carry_notMem_writesOf {i : Instr} (s : State) (h : writesCarry i = false) :
    Loc.flag .cy ∉ writesOf s i := by
  cases i with
  | add | adi | adc | aci | sub | sui | sbb | sbi | cmp | cpi | ana | ani | xra | xri | ora | ori | daa | rlc | rrc
  | ral | rar | stc | cmc | dad => cases h
  | pop p =>
    cases p
    case psw => cases h
    case bc | de | hl => simp [writesOf]
  | inr d | dcr d => cases d <;> simp [writesOf, countFlags]
  | mov d _ | mvi d _ => cases d <;> simp [writesOf]
  | lxi p _ | inx p | dcx p => cases p <;> simp [writesOf]
  | cnz | cz | cnc | cc | cpo | cpe | cp | cm | rnz | rz | rnc | rc | rpo | rpe | rp | rm =>
    exact flag_notMem_spIf .cy _
  | _ => simp [writesOf]

/-- Settles O59: a completed instruction keeps the flags it does not write. -/
theorem onlyListedInstructionsWriteFlags : Obligations.OnlyListedInstructionsWriteFlags := by
  intro i s t hexec
  have hkeeps := (exec_effect hexec).flags
  refine ⟨fun h => ?_, fun h => hkeeps .cy (carry_notMem_writesOf s h)⟩
  have hkept (f : Flag) (hf : f ≠ .cy) : t.flag f = s.flag f := hkeeps f (flag_notMem_writesOf s h hf)
  exact ⟨hkept .s (by decide), hkept .z (by decide), hkept .p (by decide), hkept .ac (by decide)⟩

/-! ### The cases of a step in the words of the statements -/

section Cases

variable {s : State} {i : Instr}

theorem live_iff : live s = true ↔ s.fault = none ∧ s.refusedMark = false := by
  simp [live]

theorem interruptedNow_eq (s : State) : interruptedNow s = (s.request.isSome && s.acceptsInterrupt) := by
  simp only [interruptedNow, State.acceptsInterrupt, Bool.and_assoc]

/-- R151, cases 3 and 4. -/
theorem step_uninterrupted (hlive : live s = true) (hint : interruptedNow s = false) :
    step s = uninterruptedStep s.sampled := by
  obtain ⟨hfault, hmark⟩ := live_iff.mp hlive
  rw [interruptedNow_eq, Bool.and_eq_false_iff, Option.isSome_eq_false_iff, Option.isNone_iff_eq_none] at hint
  rw [step_of_live hfault hmark, runningStep_of_not hint]

/-- R151, case 4. -/
theorem step_instruction (hlive : live s = true) (hint : interruptedNow s = false) (hrun : s.halted = false) :
    step s = instructionStep s.sampled := by
  rw [step_uninterrupted hlive hint, uninterruptedStep_of_not_halted (s := s.sampled) hrun]

/-- R151, case 2. -/
theorem step_acceptance {n : BitVec 3} (hlive : live s = true) (hreq : s.request = some n)
    (haccepts : s.acceptsInterrupt = true) : step s = acceptanceStep n s.sampled := by
  obtain ⟨hfault, hmark⟩ := live_iff.mp hlive
  rw [step_of_live hfault hmark, runningStep_accepts hreq haccepts]

theorem fetch_of_decode {rest : List Byte}
    (h : decode [s.read s.pc, s.read (s.pc + 1#16), s.read (s.pc + 2#16)] = .ok (i, rest)) :
    s.sampled.fetch = some i := by
  have hbytes : decode s.sampled.bytesAtPc = .ok (i, rest) := h
  simp [State.fetch, hbytes]

theorem fetch_of_absent (h : s.read s.pc ∈ absentBytes) : s.sampled.fetch = none := by
  have hbytes : decode s.sampled.bytesAtPc = .error (.absentOpcode (s.read s.pc)) := decode_of_absent _ h
  simp [State.fetch, hbytes]

/-- Whatever lies in memory, what is fetched is an instruction (D10). -/
theorem wellFormed_of_fetch (h : s.fetch = some i) : i.wellFormed = true := by
  unfold State.fetch at h
  split at h
  next j rest hdecode =>
    cases h
    exact (decodedBytesAreTheEncoding _ rest i hdecode).1
  next => cases h

/-- The `doc` rows of the table are those the statements name (30_encoding.md R125). -/
theorem decide_semanticsOf_eq_doc (i : Instr) : decide (semanticsOf i = .doc) = documented i := by
  cases i <;> rfl

theorem semanticsOf_eq_doc_iff (i : Instr) : semanticsOf i = .doc ↔ documented i = true := by
  rw [← decide_semanticsOf_eq_doc, decide_eq_true_iff]

theorem refusesRow_of_admitted (h : s.params.admitGk = .all ∨ documented i = true) :
    refusesRow s.sampled i = false := by
  rcases h with hall | hdoc
  · simp [refusesRow, hall]
  · simp [refusesRow, (semanticsOf_eq_doc_iff i).mpr hdoc]

theorem refusesRow_of_docOnly (h : s.params.admitGk = .docOnly) (hdoc : documented i = false) :
    refusesRow s.sampled i = true := by
  have hrow : semanticsOf i ≠ .doc := by
    rw [ne_eq, semanticsOf_eq_doc_iff, hdoc]
    exact Bool.false_ne_true
  simp [refusesRow, h, hrow]

theorem lacks_eq_false_iff {ls : List Loc} : s.lacks ls = false ↔ ∀ l ∈ ls, l ∉ s.unset := by
  simp [State.lacks]

theorem condReads_congr {t : State} {cond : Cond} (reads : List Loc) (h : t.holds cond = s.holds cond) :
    condReads t cond reads = condReads s cond reads := by
  rw [condReads, condReads, h]

/-- What an instruction reads depends on the condition it tests, if any, and on nothing else of the state. -/
theorem readsOf_congr {t : State} (i : Instr)
    (h : ∀ cond, Loc.flag (Cond.tests cond) ∈ readsOf s i → t.holds cond = s.holds cond) :
    readsOf t i = readsOf s i := by
  cases i with
  | jnz | cnz | rnz => exact condReads_congr _ (h .nz List.mem_cons_self)
  | jz | cz | rz => exact condReads_congr _ (h .z List.mem_cons_self)
  | jnc | cnc | rnc => exact condReads_congr _ (h .nc List.mem_cons_self)
  | jc | cc | rc => exact condReads_congr _ (h .c List.mem_cons_self)
  | jpo | cpo | rpo => exact condReads_congr _ (h .po List.mem_cons_self)
  | jpe | cpe | rpe => exact condReads_congr _ (h .pe List.mem_cons_self)
  | jp | cp | rp => exact condReads_congr _ (h .p List.mem_cons_self)
  | jm | cm | rm => exact condReads_congr _ (h .m List.mem_cons_self)
  | _ => rfl

theorem readsUnset_sampled : readsUnset s.sampled i = s.lacks (readsOf s i) :=
  congrArg s.lacks (readsOf_congr (t := s.sampled) i fun cond _ => by cases cond <;> rfl)

/-- An instruction step of an admitted row faults on a read or runs the instruction; it is not refused. -/
theorem instructionStep_ne_refused (hfetch : s.fetch = some i) (hrow : refusesRow s i = false) (r : Refusal) :
    instructionStep s ≠ .refused r := by
  cases hreads : readsUnset s i
  · obtain ⟨t, hexec⟩ := exec_completes s (wellFormed_of_fetch hfetch)
    rw [instructionStep_of_exec hfetch hrow hreads, hexec]
    exact nofun
  · rw [instructionStep_of_readsUnset hfetch hrow hreads]
    exact nofun

end Cases

/-! ### Instruction steps -/

/-- Settles O5: nothing stands between the fetch and `exec`. -/
theorem stepRunsTheDecodedInstruction : Obligations.StepRunsTheDecodedInstruction := by
  intro s i rest hlive hint hrun hdecode hadmit hreads
  have hdefined : readsUnset s.sampled i = false := by rwa [readsUnset_sampled, lacks_eq_false_iff]
  rw [step_instruction hlive hint hrun,
    instructionStep_of_exec (fetch_of_decode hdecode) (refusesRow_of_admitted hadmit) hdefined]

/-- Settles O53: nothing is fetched, and the fault leaves its record and PC past the byte. -/
theorem absentOpcodeFaults : Obligations.AbsentOpcodeFaults := by
  intro s hlive hint hrun habsent
  rw [step_instruction hlive hint hrun, instructionStep_of_none (fetch_of_absent habsent)]
  rfl

/-- Settles O55: the refusal is decided by the row alone, before what the instruction reads. -/
theorem docOnlyRefusesUndescribedRows : Obligations.DocOnlyRefusesUndescribedRows := by
  intro s i rest hlive hint hrun hdecode
  have hfetch := fetch_of_decode hdecode
  rw [step_instruction hlive hint hrun]
  refine ⟨fun honly hdoc => ?_, fun hadmit r => ?_⟩
  · rw [instructionStep_of_refuses hfetch (refusesRow_of_docOnly honly hdoc)]
    rfl
  · exact instructionStep_ne_refused hfetch (refusesRow_of_admitted hadmit) r

/-- Settles O56: one read of a marked place is enough for the fault; the marks afterwards are part of what every
completed instruction does. -/
theorem uninitialisedReadsFault : Obligations.UninitialisedReadsFault := by
  intro s
  refine ⟨fun i rest l hlive hint hrun hdecode hadmit hread hmark => ?_, fun n hlive hreq hint hmark => ?_,
    fun i t hexec => (exec_effect hexec).marks⟩
  · have hreads : readsUnset s.sampled i = true := by
      rw [readsUnset_sampled, State.lacks, List.any_eq_true]
      exact ⟨l, hread, List.contains_iff_mem.mpr hmark⟩
    rw [step_instruction hlive hint hrun,
      instructionStep_of_readsUnset (fetch_of_decode hdecode) (refusesRow_of_admitted hadmit) hreads]
    rfl
  · have haccepts : s.acceptsInterrupt = true := by simpa [interruptedNow_eq, hreq] using hint
    have hlacks : s.sampled.lacks [.sp] = true := by simpa [State.lacks] using hmark
    rw [step_acceptance hlive hreq haccepts, acceptanceStep, if_pos hlacks]
    rfl

/-- An instruction step raises `UnhandledOperand` for no memory contents: what it fetches is well formed. -/
theorem instructionStep_ne_unhandledOperand (s : State) (op : Byte) (pc : Word) (left : State) :
    instructionStep s ≠ .fault (.unhandledOperand op pc left) := by
  rcases hfetch : s.fetch with _ | i
  · rw [instructionStep_of_none hfetch]
    exact nofun
  cases hrow : refusesRow s i
  · cases hreads : readsUnset s i
    · obtain ⟨t, hexec⟩ := exec_completes s (wellFormed_of_fetch hfetch)
      rw [instructionStep_of_exec hfetch hrow hreads, hexec]
      exact nofun
    · rw [instructionStep_of_readsUnset hfetch hrow hreads]
      exact nofun
  · rw [instructionStep_of_refuses hfetch hrow]
    exact nofun

/-- Settles O57: of the cases of R151 only the instruction step could raise it. -/
theorem unhandledOperandIsUnreachable : Obligations.UnhandledOperandIsUnreachable := by
  intro s hfault op pc left
  cases hmark : s.refusedMark
  case true =>
    rw [step_of_refusedMark hfault hmark]
    exact nofun
  have hlive : live s = true := live_iff.mpr ⟨hfault, hmark⟩
  cases hint : interruptedNow s
  · rw [step_uninterrupted hlive hint]
    cases hhalted : s.halted
    · rw [uninterruptedStep_of_not_halted (s := s.sampled) hhalted]
      exact instructionStep_ne_unhandledOperand s.sampled op pc left
    · rw [uninterruptedStep_of_halted (s := s.sampled) hhalted]
      exact nofun
  · rw [interruptedNow_eq, Bool.and_eq_true, Option.isSome_iff_exists] at hint
    obtain ⟨⟨n, hreq⟩, haccepts⟩ := hint
    rw [step_acceptance hlive hreq haccepts, acceptanceStep]
    split <;> exact nofun

/-- Settles O54: case 1 of R151, by the kind of the record. -/
theorem faultsAndRefusalsAreSticky : Obligations.FaultsAndRefusalsAreSticky := fun _ =>
  ⟨fun _ _ h => step_of_fault h, fun _ _ h => step_of_fault h, fun _ _ h => step_of_fault h, step_of_refusedMark⟩

/-! ### Interrupts and the halted step -/

/-- A step that accepts no interrupt depends on the request of this step in no way. -/
theorem step_eq_of_sampled_eq {s t : State} (hfault : s.fault = none) (hs : interruptedNow s = false)
    (ht : interruptedNow t = false) (h : t.sampled = s.sampled) : step s = step t := by
  have htfault : t.fault = none := by rw [← sampled_fault, h, sampled_fault, hfault]
  have htmark : t.refusedMark = s.refusedMark := by rw [← sampled_refusedMark, h, sampled_refusedMark]
  cases hmark : s.refusedMark
  · rw [step_uninterrupted (live_iff.mpr ⟨hfault, hmark⟩) hs,
      step_uninterrupted (live_iff.mpr ⟨htfault, htmark.trans hmark⟩) ht, h]
  · rw [step_of_refusedMark hfault hmark, step_of_refusedMark htfault (htmark.trans hmark)]

/-- Settles O51: once sampled, the two states are one. -/
theorem maskedRequestsAreIgnored : Obligations.MaskedRequestsAreIgnored := fun _ hfault hint =>
  step_eq_of_sampled_eq hfault hint rfl rfl

/-- A finished run can accept no interrupt (R457). -/
theorem interruptedNow_of_finished {s : State} (h : s.runClass = .finished) : interruptedNow s = false := by
  have hclosed : s.canBeInterrupted = false := by
    cases hopen : s.canBeInterrupted
    · rfl
    · simp only [State.runClass, hopen] at h
      split_ifs at h
  rw [interruptedNow_eq, State.acceptsInterrupt]
  unfold State.canBeInterrupted at hclosed
  simp [hclosed]

/-- Settles O52: an idle step reports a count and samples the request, and no class of R457 depends on these. -/
theorem haltedStepsChangeNothing : Obligations.HaltedStepsChangeNothing := by
  intro s hlive hhalted hint
  have hstep : step s = .next (s.sampled.report Config.haltIdleCycles) := by
    rw [step_uninterrupted hlive hint, uninterruptedStep_of_halted (s := s.sampled) hhalted]
  have hclass : (s.sampled.report Config.haltIdleCycles).runClass = s.runClass := rfl
  refine ⟨_, hstep, rfl, fun hfinished => ?_⟩
  rw [← hclass] at hfinished
  exact ⟨hfinished, interruptedNow_of_finished hfinished⟩

/-- R348, R411: the vector address is eight times the number. -/
theorem vector_toNat (n : BitVec 3) : (vector n).toNat = 8 * n.toNat := by
  unfold vector
  bv_omega

/-- Acceptance is a push of PC and a jump, with INTE and halted cleared (R411). -/
theorem interrupted_touches (s : State) :
    Touches [.sp] (pushed s) { s with inte := false, halted := false }
      (State.push16 { s with inte := false, halted := false } s.pc) :=
  push16_touches { s with inte := false, halted := false } s.pc

/-- Settles O50: SP holds a value, so acceptance gives no place one. -/
theorem interruptAcceptancePushesPc : Obligations.InterruptAcceptancePushesPc := by
  intro s n hlive hreq hirq hinte hshadow hsp
  have haccepts : s.acceptsInterrupt = true := by simp [State.acceptsInterrupt, hirq, hinte, hshadow]
  have hlacks : s.sampled.lacks [.sp] = false := lacks_eq_false_iff.mpr (by simpa using hsp)
  have hstep : step s = .next ((s.sampled.interrupted n).report acceptanceCycles) := by
    rw [step_acceptance hlive hreq haccepts, acceptanceStep, hlacks]
    rfl
  have htouch := interrupted_touches s.sampled
  have hmarks (l : Loc) : l ∈ ((s.sampled.interrupted n).report acceptanceCycles).unset ↔ l ∈ s.unset := by
    refine (htouch.marks l).trans (and_iff_left_of_imp fun hl hmem => ?_)
    exact hsp (List.mem_singleton.mp hmem ▸ hl)
  exact ⟨_, hstep, rfl, rfl, hshadow, vector_toNat n, { push16_pushes _ s.pc with }, { htouch.keeps with }, rfl, rfl, rfl,
    hmarks⟩

end Sys2Proof.Machine
end

section
/-! PROOFS. 10_state.md R50 and R53, 40_execute.md R156: the invariant, at reset and along every step. Each case of a
completed step (R151) cites what acceptance, the idle step or the instruction does. -/

open Sys2Proof Sys2Proof.Claims

namespace Sys2Proof.Machine

/-! ### Reset -/

/-- Settles O6: RESET_MODE is `zero` in the default parameters. -/
theorem resetLeavesTheZeroContract : Obligations.ResetLeavesTheZeroContract :=
  ⟨fun r => by cases r <;> rfl, fun f => by cases f <;> rfl, rfl, rfl, rfl, rfl, rfl, rfl, rfl, rfl, fun _ => rfl⟩

/-- Settles O7: no byte is listed, and neither EI_SHADOW nor halted is set. -/
theorem resetMeetsTheInvariant : Obligations.ResetMeetsTheInvariant where
  memWf := reset_mem_wf
  shadowEnabled := nofun
  haltedUnshadowed := nofun
  defined := fun _ => rfl

/-! ### Memory -/

/-- Settles O11: a write touches the one byte and no place. -/
theorem writtenByteReadsBackAlone : Obligations.WrittenByteReadsBackAlone := by
  intro s a v
  refine ⟨?_, fun b hb => ?_, (write_touches s a v).frame, rfl⟩
  · rw [write_read, if_pos rfl]
  · rw [write_read, if_neg hb]

/-! ### Every step -/

section Steps

variable {s t : State}

theorem ei_sets_inte (h : exec .ei s = .next t) : t.inte = true ∧ t.halted = s.halted := by
  rw [exec_ei, completes_eq] at h
  cases h
  exact ⟨rfl, rfl⟩

/-- Where every place holds a value, no operation takes one away. -/
theorem unset_eq_nil_of_marks {w : List Loc} (hmarks : ∀ l, l ∈ t.unset ↔ l ∈ s.unset ∧ l ∉ w) (h : s.unset = []) :
    t.unset = [] := by
  refine List.eq_nil_iff_forall_not_mem.mpr fun l hl => ?_
  rw [hmarks, h] at hl
  exact List.not_mem_nil hl.1

theorem interrupted_inv (n : BitVec 3) (hinv : s.Inv) (haccepts : s.acceptsInterrupt = true) :
    (s.interrupted n).Inv where
  memWf := (interrupted_touches s).memWf hinv.memWf
  shadowEnabled := fun hshadow => by
    have hclear : s.eiShadow = false := by simpa using (Bool.and_eq_true_iff.mp haccepts).2
    exact absurd (hclear.symm.trans hshadow) Bool.false_ne_true
  haltedUnshadowed := nofun
  defined := fun hmode => unset_eq_nil_of_marks (interrupted_touches s).marks (hinv.defined hmode)

/-- EI alone sets EI_SHADOW, and it sets INTE with it; it runs only while the machine is not halted. -/
theorem exec_inv {i : Instr} (hinv : s.Inv) (hrun : s.halted = false) (hexec : exec i s = .next t) : t.Inv := by
  have heffect := exec_effect hexec
  have hei : t.eiShadow = true → i = .ei := fun hshadow => by
    rwa [heffect.eiShadow, decide_eq_true_iff] at hshadow
  refine ⟨heffect.memWf hinv.memWf, fun hshadow => ?_, fun hhalted => ?_, fun hmode => ?_⟩
  · obtain rfl := hei hshadow
    exact (ei_sets_inte hexec).1
  · by_contra hshadow
    obtain rfl := hei (Bool.not_eq_false _ ▸ hshadow)
    rw [(ei_sets_inte hexec).2, hrun] at hhalted
    cases hhalted
  · rw [heffect.params] at hmode
    exact unset_eq_nil_of_marks heffect.marks (hinv.defined hmode)

end Steps

theorem State.Inv.sampled {s : State} (h : s.Inv) : s.sampled.Inv := { h with }

theorem State.Inv.report {s : State} (h : s.Inv) (c : Nat) : (s.report c).Inv := { h with }

/-- Settles O8: case by case of R151. -/
theorem everyStepKeepsTheInvariant : Obligations.EveryStepKeepsTheInvariant := by
  intro s t hinv hstep
  obtain ⟨-, -, ⟨n, -, haccepts, -, rfl⟩ | ⟨-, ⟨-, rfl⟩ | ⟨hrun, i, -, -, -, hexec⟩⟩⟩ := step_next_cases hstep
  · exact (interrupted_inv n hinv.sampled haccepts).report acceptanceCycles
  · exact hinv.sampled.report Config.haltIdleCycles
  · exact exec_inv hinv.sampled hrun hexec

/-- Settles O9: a completed step begins without a fault or a refusal, and no case of R151 that completes makes one. -/
theorem stepsKeepParametersAndLiveness : Obligations.StepsKeepParametersAndLiveness := by
  intro s t hstep
  obtain ⟨hfault, hmark, hcases⟩ := step_next_cases hstep
  have hlive : live s = true := live_iff.mpr ⟨hfault, hmark⟩
  obtain ⟨n, -, -, -, rfl⟩ | ⟨-, ⟨-, rfl⟩ | ⟨-, i, -, -, -, hexec⟩⟩ := hcases
  · exact ⟨rfl, hlive, hlive, List.prefix_rfl⟩
  · exact ⟨rfl, hlive, hlive, List.prefix_rfl⟩
  · have heffect := exec_effect hexec
    exact ⟨heffect.params, hlive, live_iff.mpr ⟨heffect.fault.trans hfault, heffect.refusedMark.trans hmark⟩,
      heffect.events⟩

end Sys2Proof.Machine
end

section
/-! PROOFS. 60_exceptions.md R405 and 70_reset_and_hazards.md R441: no completed step depends on a place that holds no
value. Two states that agree where the first holds values read the same wherever an instruction reads (`readsOf`), and
then do the same to the rest. -/

open Sys2Proof Sys2Proof.Claims

namespace Sys2Proof.Machine

/-! ### Reads -/

/-- Every place of `ls` holds a value. -/
def State.defines (s : State) (ls : List Loc) : Prop := ∀ l ∈ ls, l ∉ s.unset

section Agreement

variable {s t : State}

theorem State.defines_cons {l : Loc} {ls : List Loc} : s.defines (l :: ls) ↔ l ∉ s.unset ∧ s.defines ls :=
  List.forall_mem_cons

theorem State.defines_append {ks ls : List Loc} : s.defines (ks ++ ls) ↔ s.defines ks ∧ s.defines ls :=
  List.forall_mem_append

theorem AgreeOnDefined.pair (h : AgreeOnDefined s t) {p : RegPair} (hp : s.defines (pairReads p)) :
    t.pair p = s.pair p := by
  cases p with
  | bc => exact congrArg₂ joinBytes (h.regs .b (hp _ (by decide))) (h.regs .c (hp _ (by decide)))
  | de => exact congrArg₂ joinBytes (h.regs .d (hp _ (by decide))) (h.regs .e (hp _ (by decide)))
  | hl => exact congrArg₂ joinBytes (h.regs .h (hp _ (by decide))) (h.regs .l (hp _ (by decide)))
  | sp => exact h.sp (hp _ (by decide))

theorem AgreeOnDefined.toByte (h : AgreeOnDefined s t) (hf : ∀ f, Loc.flag f ∉ s.unset) :
    t.flags.toByte = s.flags.toByte := by
  have hflag (f : Flag) : t.flags.get f = s.flags.get f := h.flags f (hf f)
  have heq : t.flags = s.flags := by
    rw [Flags.mk.injEq]
    exact ⟨hflag .s, hflag .z, hflag .ac, hflag .p, hflag .cy⟩
  rw [heq]

theorem AgreeOnDefined.stackPair (h : AgreeOnDefined s t) {p : StackPair} (hp : s.defines (stackPairReads p)) :
    t.stackPair p = s.stackPair p := by
  cases p with
  | bc => exact h.pair (p := .bc) hp
  | de => exact h.pair (p := .de) hp
  | hl => exact h.pair (p := .hl) hp
  | psw =>
    have hflags (f : Flag) : Loc.flag f ∉ s.unset := hp _ (by cases f <;> decide)
    exact congrArg₂ joinBytes (h.regs .a (hp _ (by decide))) (h.toByte hflags)

theorem AgreeOnDefined.src (h : AgreeOnDefined s t) {src : Operand} (hsrc : s.defines (srcReads src)) :
    t.src src = s.src src := by
  cases src with
  | reg r => exact h.regs r (hsrc _ (by simp [srcReads]))
  | m =>
    have hpair : t.pair .hl = s.pair .hl := h.pair hsrc
    rw [State.src, State.src, hpair, h.read]

theorem AgreeOnDefined.readWord (h : AgreeOnDefined s t) (a : Word) : t.readWord a = s.readWord a := by
  rw [State.readWord, State.readWord, h.read, h.read]

theorem AgreeOnDefined.holds (h : AgreeOnDefined s t) {cond : Cond} (hc : Loc.flag (Cond.tests cond) ∉ s.unset) :
    t.holds cond = s.holds cond := by
  have hflag := h.flags _ hc
  cases cond <;> simp_all [State.holds, Cond.tests]

/-! ### Operations that read -/

theorem AgreeOnDefined.setDst (h : AgreeOnDefined s t) {d : Operand} (hd : s.defines (dstReads d)) (v : Byte) :
    AgreeOnDefined (s.setDst d v) (t.setDst d v) := by
  cases d with
  | reg r => exact h.setReg r v
  | m =>
    have hpair : t.pair .hl = s.pair .hl := h.pair hd
    rw [State.setDst, State.setDst, hpair]
    exact h.write _ v

/-- INR and DCR read the place they write. -/
theorem defines_dstReads {d : Operand} (hd : s.defines (srcReads d)) : s.defines (dstReads d) := by
  cases d with
  | reg r => exact nofun
  | m => exact hd

theorem AgreeOnDefined.addA (h : AgreeOnDefined s t) (ha : Loc.reg .a ∉ s.unset) {v v' : Byte} {c c' : Bool}
    (hv : v' = v) (hc : c' = c) : AgreeOnDefined (s.addA v c) (t.addA v' c') := by
  rw [State.addA, State.addA, h.regs .a ha, hv, hc]
  exact h.alu _

theorem AgreeOnDefined.subA (h : AgreeOnDefined s t) (ha : Loc.reg .a ∉ s.unset) {v v' : Byte} {c c' : Bool}
    (hv : v' = v) (hc : c' = c) : AgreeOnDefined (s.subA v c) (t.subA v' c') := by
  rw [State.subA, State.subA, h.regs .a ha, h.params, hv, hc]
  exact h.alu _

theorem AgreeOnDefined.cmpA (h : AgreeOnDefined s t) (ha : Loc.reg .a ∉ s.unset) {v v' : Byte} (hv : v' = v) :
    AgreeOnDefined (s.cmpA v) (t.cmpA v') := by
  rw [State.cmpA, State.cmpA, h.regs .a ha, h.params, hv]
  exact h.aluFlags _

theorem AgreeOnDefined.andA (h : AgreeOnDefined s t) (ha : Loc.reg .a ∉ s.unset) {v v' : Byte} (hv : v' = v) :
    AgreeOnDefined (s.andA v) (t.andA v') := by
  rw [State.andA, State.andA, h.regs .a ha, h.params, hv]
  exact h.alu _

theorem AgreeOnDefined.xorA (h : AgreeOnDefined s t) (ha : Loc.reg .a ∉ s.unset) {v v' : Byte} (hv : v' = v) :
    AgreeOnDefined (s.xorA v) (t.xorA v') := by
  rw [State.xorA, State.xorA, h.regs .a ha, hv]
  exact h.alu _

theorem AgreeOnDefined.orA (h : AgreeOnDefined s t) (ha : Loc.reg .a ∉ s.unset) {v v' : Byte} (hv : v' = v) :
    AgreeOnDefined (s.orA v) (t.orA v') := by
  rw [State.orA, State.orA, h.regs .a ha, hv]
  exact h.alu _

/-- A rotation that takes A and CY as they are. -/
theorem AgreeOnDefined.rotate (h : AgreeOnDefined s t) (v : Byte) (b : Bool) :
    AgreeOnDefined (s.rotate v b) (t.rotate v b) :=
  (h.setFlag .cy b).setReg .a v

theorem AgreeOnDefined.increment (h : AgreeOnDefined s t) {d : Operand} (hd : s.defines (srcReads d)) :
    AgreeOnDefined (s.increment d) (t.increment d) := by
  rw [State.increment, State.increment, h.src hd]
  exact ((h.setDst (defines_dstReads hd) _).setFlag .ac _).szp _

theorem AgreeOnDefined.decrement (h : AgreeOnDefined s t) {d : Operand} (hd : s.defines (srcReads d)) :
    AgreeOnDefined (s.decrement d) (t.decrement d) := by
  rw [State.decrement, State.decrement, h.src hd, h.params]
  exact ((h.setDst (defines_dstReads hd) _).setFlag .ac _).szp _

theorem AgreeOnDefined.addHl (h : AgreeOnDefined s t) (hl : s.defines (pairReads .hl)) {v v' : Word} (hv : v' = v) :
    AgreeOnDefined (s.addHl v) (t.addHl v') := by
  rw [State.addHl, State.addHl, h.pair hl, hv]
  exact (h.setPair .hl _).setFlag .cy _

theorem AgreeOnDefined.call (h : AgreeOnDefined s t) (hs : s.defines [.sp]) (a : Word) :
    AgreeOnDefined (s.call a) (t.call a) := by
  rw [State.call, State.call, h.pc]
  exact (h.push16 (hs _ (by decide)) _).setPc a

theorem AgreeOnDefined.restart (h : AgreeOnDefined s t) (hs : s.defines [.sp]) (n : BitVec 3) :
    AgreeOnDefined (s.restart n) (t.restart n) :=
  h.call hs (vector n)

theorem AgreeOnDefined.returned (h : AgreeOnDefined s t) (hs : s.defines [.sp]) :
    AgreeOnDefined s.returned t.returned := by
  rw [State.returned, State.returned, h.top16 (hs _ (by decide))]
  exact (h.drop16 (hs _ (by decide))).setPc _

/-- The tested flag is read in any case, what the transfer reads only if it is made. -/
theorem AgreeOnDefined.doIf (h : AgreeOnDefined s t) {cond : Cond} {reads : List Loc} {transfer : State → State}
    (hr : s.defines (condReads s cond reads)) (ht : s.defines reads → AgreeOnDefined (transfer s) (transfer t)) :
    AgreeOnDefined (s.doIf cond transfer) (t.doIf cond transfer) := by
  obtain ⟨hflag, hreads⟩ := State.defines_cons.mp hr
  rw [State.doIf, State.doIf, h.holds hflag]
  split
  next hholds => exact ht (by rwa [if_pos hholds] at hreads)
  next => exact h

/-! ### Instructions -/

variable {i : Instr} {f : State → State} {u : State}

/-- Fetching and reporting keep agreement. -/
theorem agrees_of_completes (hexec : ∀ s, exec i s = completes i s f)
    (hf : AgreeOnDefined (f (s.fetched i.length)) (f (t.fetched i.length))) (hu : exec i s = .next u) :
    ∃ v, exec i t = .next v ∧ AgreeOnDefined u v := by
  rw [hexec, completes_eq] at hu
  cases hu
  exact ⟨_, hexec t, hf.report _ _⟩

/-- The same for the three instructions with ill-formed terms, which do not complete. -/
theorem agrees_of_completesIfKnown (hexec : ∀ s, exec i s = completesIfKnown i s f)
    (hf : AgreeOnDefined (f (s.fetched i.length)) (f (t.fetched i.length))) (hu : exec i s = .next u) :
    ∃ v, exec i t = .next v ∧ AgreeOnDefined u v := by
  cases hwf : i.wellFormed
  · rw [exec_of_not_wellFormed s hwf] at hu
    cases hu
  · exact agrees_of_completes
      (fun s => (hexec s).trans (completesIfKnown_of_wellFormed i s f hwf)) hf hu

/-- Every instruction whose reads hold values does the same to both states, by its rule's shared operations. -/
theorem exec_agrees (h : AgreeOnDefined s t) (hr : s.defines (readsOf s i)) (hu : exec i s = .next u) :
    ∃ v, exec i t = .next v ∧ AgreeOnDefined u v := by
  have hf := h.fetched i.length
  cases i with
  | add src =>
    obtain ⟨ha, hsrc⟩ := State.defines_cons.mp hr
    exact agrees_of_completes (exec_add src) (hf.addA ha (hf.src hsrc) rfl) hu
  | sub src =>
    obtain ⟨ha, hsrc⟩ := State.defines_cons.mp hr
    exact agrees_of_completes (exec_sub src) (hf.subA ha (hf.src hsrc) rfl) hu
  | adc src =>
    obtain ⟨ha, hrest⟩ := State.defines_cons.mp hr
    obtain ⟨hcy, hsrc⟩ := State.defines_cons.mp hrest
    exact agrees_of_completes (exec_adc src) (hf.addA ha (hf.src hsrc) (h.flags .cy hcy)) hu
  | sbb src =>
    obtain ⟨ha, hrest⟩ := State.defines_cons.mp hr
    obtain ⟨hcy, hsrc⟩ := State.defines_cons.mp hrest
    exact agrees_of_completes (exec_sbb src) (hf.subA ha (hf.src hsrc) (h.flags .cy hcy)) hu
  | cmp src =>
    obtain ⟨ha, hsrc⟩ := State.defines_cons.mp hr
    exact agrees_of_completes (exec_cmp src) (hf.cmpA ha (hf.src hsrc)) hu
  | ana src =>
    obtain ⟨ha, hsrc⟩ := State.defines_cons.mp hr
    exact agrees_of_completes (exec_ana src) (hf.andA ha (hf.src hsrc)) hu
  | xra src =>
    obtain ⟨ha, hsrc⟩ := State.defines_cons.mp hr
    exact agrees_of_completes (exec_xra src) (hf.xorA ha (hf.src hsrc)) hu
  | ora src =>
    obtain ⟨ha, hsrc⟩ := State.defines_cons.mp hr
    exact agrees_of_completes (exec_ora src) (hf.orA ha (hf.src hsrc)) hu
  | adi d8 => exact agrees_of_completes (exec_adi d8) (hf.addA (hr _ List.mem_cons_self) rfl rfl) hu
  | sui d8 => exact agrees_of_completes (exec_sui d8) (hf.subA (hr _ List.mem_cons_self) rfl rfl) hu
  | aci d8 =>
    have hcy := h.flags .cy (hr _ (by simp [readsOf]))
    exact agrees_of_completes (exec_aci d8) (hf.addA (hr _ (by simp [readsOf])) rfl hcy) hu
  | sbi d8 =>
    have hcy := h.flags .cy (hr _ (by simp [readsOf]))
    exact agrees_of_completes (exec_sbi d8) (hf.subA (hr _ (by simp [readsOf])) rfl hcy) hu
  | cpi d8 => exact agrees_of_completes (exec_cpi d8) (hf.cmpA (hr _ List.mem_cons_self) rfl) hu
  | ani d8 => exact agrees_of_completes (exec_ani d8) (hf.andA (hr _ List.mem_cons_self) rfl) hu
  | xri d8 => exact agrees_of_completes (exec_xri d8) (hf.xorA (hr _ List.mem_cons_self) rfl) hu
  | ori d8 => exact agrees_of_completes (exec_ori d8) (hf.orA (hr _ List.mem_cons_self) rfl) hu
  | inr d => exact agrees_of_completes (exec_inr d) (hf.increment hr) hu
  | dcr d => exact agrees_of_completes (exec_dcr d) (hf.decrement hr) hu
  | daa =>
    refine agrees_of_completes exec_daa ?_ hu
    rw [hf.regs .a (hr _ (by simp [readsOf])), hf.flags .ac (hr _ (by simp [readsOf])),
      hf.flags .cy (hr _ (by simp [readsOf]))]
    exact hf.alu _
  | rlc =>
    refine agrees_of_completes exec_rlc ?_ hu
    rw [hf.regs .a (hr _ (by simp [readsOf]))]
    exact hf.rotate _ _
  | rrc =>
    refine agrees_of_completes exec_rrc ?_ hu
    rw [hf.regs .a (hr _ (by simp [readsOf]))]
    exact hf.rotate _ _
  | ral =>
    refine agrees_of_completes exec_ral ?_ hu
    rw [hf.regs .a (hr _ (by simp [readsOf])), hf.flags .cy (hr _ (by simp [readsOf]))]
    exact hf.rotate _ _
  | rar =>
    refine agrees_of_completes exec_rar ?_ hu
    rw [hf.regs .a (hr _ (by simp [readsOf])), hf.flags .cy (hr _ (by simp [readsOf]))]
    exact hf.rotate _ _
  | cma =>
    refine agrees_of_completes exec_cma ?_ hu
    rw [hf.regs .a (hr _ (by simp [readsOf]))]
    exact hf.setReg .a _
  | cmc =>
    refine agrees_of_completes exec_cmc ?_ hu
    rw [hf.flags .cy (hr _ (by simp [readsOf]))]
    exact hf.setFlag .cy _
  | stc => exact agrees_of_completes exec_stc (hf.setFlag .cy true) hu
  | mov d src =>
    obtain ⟨hsrc, hd⟩ := State.defines_append.mp hr
    refine agrees_of_completesIfKnown (exec_mov d src) ?_ hu
    rw [hf.src hsrc]
    exact hf.setDst hd _
  | mvi d d8 => exact agrees_of_completes (exec_mvi d d8) (hf.setDst hr d8) hu
  | lxi p v => exact agrees_of_completes (exec_lxi p v) (hf.setPair p v) hu
  | lda a16 =>
    refine agrees_of_completes (exec_lda a16) ?_ hu
    rw [hf.read]
    exact hf.setReg .a _
  | sta a16 =>
    refine agrees_of_completes (exec_sta a16) ?_ hu
    rw [hf.regs .a (hr _ (by simp [readsOf]))]
    exact hf.write a16 _
  | lhld a16 =>
    refine agrees_of_completes (exec_lhld a16) ?_ hu
    rw [hf.readWord]
    exact hf.setPair .hl _
  | shld a16 =>
    refine agrees_of_completes (exec_shld a16) ?_ hu
    rw [hf.pair (p := .hl) hr]
    exact hf.writeWord a16 _
  | ldax p =>
    refine agrees_of_completesIfKnown (exec_ldax p) ?_ hu
    rw [hf.pair (p := p) hr, hf.read]
    exact hf.setReg .a _
  | stax p =>
    obtain ⟨ha, hp⟩ := State.defines_cons.mp hr
    refine agrees_of_completesIfKnown (exec_stax p) ?_ hu
    rw [hf.pair (p := p) hp, hf.regs .a ha]
    exact hf.write _ _
  | xchg =>
    obtain ⟨hhl, hde⟩ := State.defines_append.mp hr
    refine agrees_of_completes exec_xchg ?_ hu
    rw [hf.pair (p := .hl) hhl, hf.pair (p := .de) hde]
    exact (hf.setPair .hl _).setPair .de _
  | inx p =>
    refine agrees_of_completes (exec_inx p) ?_ hu
    rw [hf.pair (p := p) hr]
    exact hf.setPair p _
  | dcx p =>
    refine agrees_of_completes (exec_dcx p) ?_ hu
    rw [hf.pair (p := p) hr]
    exact hf.setPair p _
  | dad p =>
    obtain ⟨hhl, hp⟩ := State.defines_append.mp hr
    exact agrees_of_completes (exec_dad p) (hf.addHl hhl (hf.pair hp)) hu
  | push p =>
    obtain ⟨hsp, hp⟩ := State.defines_cons.mp hr
    refine agrees_of_completes (exec_push p) ?_ hu
    rw [hf.stackPair hp]
    exact hf.push16 hsp _
  | pop p =>
    have hsp := hr _ List.mem_cons_self
    refine agrees_of_completes (exec_pop p) ?_ hu
    rw [hf.top16 hsp]
    exact (hf.drop16 hsp).setStackPair p _
  | xthl =>
    obtain ⟨hsp, hhl⟩ := State.defines_cons.mp hr
    refine agrees_of_completes exec_xthl ?_ hu
    rw [hf.sp hsp, hf.pair (p := .hl) hhl, hf.readWord]
    exact (hf.writeWord _ _).setPair .hl _
  | sphl =>
    refine agrees_of_completes exec_sphl ?_ hu
    rw [hf.pair (p := .hl) hr]
    exact hf.setSp _
  | pchl =>
    refine agrees_of_completes exec_pchl ?_ hu
    rw [hf.pair (p := .hl) hr]
    exact hf.setPc _
  | jmp a16 => exact agrees_of_completes (exec_jmp a16) (hf.setPc a16) hu
  | jnz a16 => exact agrees_of_completes (exec_jnz a16) (hf.doIf hr fun _ => hf.setPc a16) hu
  | jz a16 => exact agrees_of_completes (exec_jz a16) (hf.doIf hr fun _ => hf.setPc a16) hu
  | jnc a16 => exact agrees_of_completes (exec_jnc a16) (hf.doIf hr fun _ => hf.setPc a16) hu
  | jc a16 => exact agrees_of_completes (exec_jc a16) (hf.doIf hr fun _ => hf.setPc a16) hu
  | jpo a16 => exact agrees_of_completes (exec_jpo a16) (hf.doIf hr fun _ => hf.setPc a16) hu
  | jpe a16 => exact agrees_of_completes (exec_jpe a16) (hf.doIf hr fun _ => hf.setPc a16) hu
  | jp a16 => exact agrees_of_completes (exec_jp a16) (hf.doIf hr fun _ => hf.setPc a16) hu
  | jm a16 => exact agrees_of_completes (exec_jm a16) (hf.doIf hr fun _ => hf.setPc a16) hu
  | call a16 => exact agrees_of_completes (exec_call a16) (hf.call hr a16) hu
  | cnz a16 => exact agrees_of_completes (exec_cnz a16) (hf.doIf hr fun hs => hf.call hs a16) hu
  | cz a16 => exact agrees_of_completes (exec_cz a16) (hf.doIf hr fun hs => hf.call hs a16) hu
  | cnc a16 => exact agrees_of_completes (exec_cnc a16) (hf.doIf hr fun hs => hf.call hs a16) hu
  | cc a16 => exact agrees_of_completes (exec_cc a16) (hf.doIf hr fun hs => hf.call hs a16) hu
  | cpo a16 => exact agrees_of_completes (exec_cpo a16) (hf.doIf hr fun hs => hf.call hs a16) hu
  | cpe a16 => exact agrees_of_completes (exec_cpe a16) (hf.doIf hr fun hs => hf.call hs a16) hu
  | cp a16 => exact agrees_of_completes (exec_cp a16) (hf.doIf hr fun hs => hf.call hs a16) hu
  | cm a16 => exact agrees_of_completes (exec_cm a16) (hf.doIf hr fun hs => hf.call hs a16) hu
  | ret => exact agrees_of_completes exec_ret (hf.returned hr) hu
  | rnz => exact agrees_of_completes exec_rnz (hf.doIf hr hf.returned) hu
  | rz => exact agrees_of_completes exec_rz (hf.doIf hr hf.returned) hu
  | rnc => exact agrees_of_completes exec_rnc (hf.doIf hr hf.returned) hu
  | rc => exact agrees_of_completes exec_rc (hf.doIf hr hf.returned) hu
  | rpo => exact agrees_of_completes exec_rpo (hf.doIf hr hf.returned) hu
  | rpe => exact agrees_of_completes exec_rpe (hf.doIf hr hf.returned) hu
  | rp => exact agrees_of_completes exec_rp (hf.doIf hr hf.returned) hu
  | rm => exact agrees_of_completes exec_rm (hf.doIf hr hf.returned) hu
  | rst n => exact agrees_of_completes (exec_rst n) (hf.restart hr n) hu
  | nop => exact agrees_of_completes exec_nop hf hu
  | hlt => exact agrees_of_completes exec_hlt { hf with halted := rfl } hu
  | ei => exact agrees_of_completes exec_ei { hf with inte := rfl, eiShadow := rfl } hu
  | di => exact agrees_of_completes exec_di { hf with inte := rfl } hu
  | inp p8 =>
    refine agrees_of_completes (exec_inp p8) ?_ hu
    rw [hf.ioAnswer]
    exact (hf.ioIn p8).setReg .a _
  | out p8 =>
    refine agrees_of_completes (exec_out p8) ?_ hu
    rw [hf.regs .a (hr _ List.mem_cons_self)]
    exact hf.ioOut p8 _

/-! ### Steps -/

/-- A condition that is tested is read, so both states test it alike. -/
theorem AgreeOnDefined.readsOf (h : AgreeOnDefined s t) (hr : s.defines (readsOf s i)) :
    Machine.readsOf t i = Machine.readsOf s i :=
  readsOf_congr i fun _ hmem => h.holds (hr _ hmem)

theorem AgreeOnDefined.fetch (h : AgreeOnDefined s t) : t.fetch = s.fetch := by
  simp only [State.fetch, State.bytesAtPc, h.pc, h.read]

theorem AgreeOnDefined.lacks (h : AgreeOnDefined s t) (ls : List Loc) : t.lacks ls = s.lacks ls := by
  rw [State.lacks, State.lacks, h.unset]

theorem AgreeOnDefined.refusesRow (h : AgreeOnDefined s t) : Machine.refusesRow t i = Machine.refusesRow s i := by
  rw [Machine.refusesRow, Machine.refusesRow, h.params]

theorem AgreeOnDefined.request (h : AgreeOnDefined s t) : t.request = s.request := by
  rw [State.request, State.request, h.env]

theorem AgreeOnDefined.acceptsInterrupt (h : AgreeOnDefined s t) : t.acceptsInterrupt = s.acceptsInterrupt := by
  rw [State.acceptsInterrupt, State.acceptsInterrupt, h.params, h.inte, h.eiShadow]

theorem AgreeOnDefined.interrupted (h : AgreeOnDefined s t) (hsp : Loc.sp ∉ s.unset) (n : BitVec 3) :
    AgreeOnDefined (s.interrupted n) (t.interrupted n) := by
  have hcleared :
      AgreeOnDefined { s with inte := false, halted := false } { t with inte := false, halted := false } :=
    { h with inte := rfl, halted := rfl }
  exact hcleared.restart (by simpa [State.defines] using hsp) n

/-- An instruction step that completes at one state completes at the other. -/
theorem instructionStep_agrees (h : AgreeOnDefined s t) (hfetch : s.fetch = some i) (hrow : refusesRow s i = false)
    (hreads : readsUnset s i = false) (hu : exec i s = .next u) :
    ∃ v, instructionStep t = .next v ∧ AgreeOnDefined u v := by
  have hdefined : s.defines (readsOf s i) := lacks_eq_false_iff.mp hreads
  have htreads : readsUnset t i = false := by rwa [readsUnset, h.readsOf hdefined, h.lacks]
  obtain ⟨v, hv, hagrees⟩ := exec_agrees h hdefined hu
  refine ⟨v, ?_, hagrees⟩
  rw [instructionStep_of_exec (h.fetch.trans hfetch) (h.refusesRow.trans hrow) htreads, hv]

end Agreement

/-- Settles O10: both steps are the same case of R151, and each case keeps agreement. -/
theorem undefinedPlacesNeverInfluenceAStep : Obligations.UndefinedPlacesNeverInfluenceAStep := by
  intro s s' t h hstep
  obtain ⟨hfault, hmark, hcases⟩ := step_next_cases hstep
  rw [step_of_live (h.fault.trans hfault) (h.refusedMark.trans hmark)]
  obtain ⟨n, hreq, haccepts, hsp, rfl⟩ | ⟨hnot, hcases⟩ := hcases
  · have hlacks : s'.sampled.lacks [.sp] = false := by
      rw [h.sampled.lacks]
      exact lacks_eq_false_iff.mpr (by simpa using hsp)
    rw [runningStep_accepts (h.request.trans hreq) (h.acceptsInterrupt.trans haccepts), acceptanceStep, hlacks]
    exact ⟨_, rfl, (h.sampled.interrupted hsp n).report _ _⟩
  · rw [← h.request, ← h.acceptsInterrupt] at hnot
    rw [runningStep_of_not hnot]
    obtain ⟨hhalted, rfl⟩ | ⟨hrun, i, hfetch, hrow, hreads, hexec⟩ := hcases
    · rw [uninterruptedStep_of_halted (s := s'.sampled) (h.halted.trans hhalted)]
      exact ⟨_, rfl, h.sampled.report _ _⟩
    · rw [uninterruptedStep_of_not_halted (s := s'.sampled) (h.halted.trans hrun)]
      exact instructionStep_agrees h.sampled hfetch hrow hreads hexec

end Sys2Proof.Machine
end

section
/-! PROOFS. 41_arithmetic.md R210 and R213, 42_logical_rotate.md R247 and R250: the decimal adjustment and what it is for,
and the operations that undo one another. Each is arithmetic, or a fact about bits, on what the instructions are known to
leave. -/

open Sys2Proof Sys2Proof.Claims

namespace Sys2Proof.Machine

/-! ### DAA -/

/-- DAA step 1 asks for the low-nibble correction. -/
def daaTakesLow (a : Byte) (ac : Bool) : Bool := ac || decide (9 < a.toNat % 16)

/-- Step 1 as a number: A plus 6 when asked, with CY set by a carry out of the byte (D7). -/
theorem daaLow_spec (a : Byte) (ac cy : Bool) :
    (daaLow a ac cy).res.toNat = (a.toNat + if daaTakesLow a ac then 6 else 0) % 256 ∧
      (daaLow a ac cy).cy = (cy || decide (255 < a.toNat + if daaTakesLow a ac then 6 else 0)) ∧
      (daaLow a ac cy).ac = decide (9 < a.toNat % 16) := by
  have ha := a.isLt
  by_cases hlow : ac = true ∨ lowNibble a > 9
  · have htakes : daaTakesLow a ac = true := by simpa [daaTakesLow, lowNibble] using hlow
    have hnibble : lowNibble a + 6 > 15 ↔ 9 < a.toNat % 16 := by
      unfold lowNibble
      omega
    rw [daaLow, if_pos hlow, htakes]
    exact ⟨rfl, rfl, decide_eq_decide.mpr hnibble⟩
  · have htakes : daaTakesLow a ac = false := by simpa [daaTakesLow, lowNibble] using hlow
    obtain ⟨hac, hnibble⟩ := not_or.mp hlow
    rw [Bool.not_eq_true] at hac
    have hfits : ¬ 255 < a.toNat := by omega
    rw [daaLow, if_neg hlow, htakes, hac]
    refine ⟨(Nat.mod_eq_of_lt ha).symm, ?_, (decide_eq_false hnibble).symm⟩
    simp [hfits]

/-- Step 2 as a number: the correction of the high nibble adds 0x60, and CY says whether it was made (D8). -/
theorem daaHigh_spec (r : AluResult) :
    (daaHigh r).res.toNat = (r.res.toNat + if r.cy || decide (0x9F < r.res.toNat) then 0x60 else 0) % 256 ∧
      (daaHigh r).cy = (r.cy || decide (0x9F < r.res.toNat)) ∧ (daaHigh r).ac = r.ac := by
  have hr := r.res.isLt
  have hnibble : highNibble r.res > 9 ↔ 0x9F < r.res.toNat := by
    unfold highNibble
    omega
  by_cases hhigh : r.cy = true ∨ highNibble r.res > 9
  · have htakes : (r.cy || decide (0x9F < r.res.toNat)) = true := by simpa [hnibble] using hhigh
    have hcarry : highNibble r.res + 6 > 15 ↔ 0x9F < r.res.toNat := by
      rw [← hnibble]
      omega
    have hsum : ((highNibble r.res + 6) % 16 * 16 + lowNibble r.res) % 256 = (r.res.toNat + 0x60) % 256 := by
      unfold highNibble lowNibble
      omega
    rw [daaHigh, if_pos hhigh, htakes]
    exact ⟨(BitVec.toNat_ofNat ..).trans hsum, by rw [decide_eq_decide.mpr hcarry, htakes], rfl⟩
  · have htakes : (r.cy || decide (0x9F < r.res.toNat)) = false := by simpa [hnibble] using hhigh
    obtain ⟨hcy, -⟩ := not_or.mp hhigh
    rw [Bool.not_eq_true] at hcy
    rw [daaHigh, if_neg hhigh, htakes]
    exact ⟨(Nat.mod_eq_of_lt hr).symm, hcy, rfl⟩

/-- The two steps in closed form: that step 2 is taken can be seen from A and CY alone. -/
theorem daa8_spec (a : Byte) (ac cy : Bool) :
    (daa8 a ac cy).res.toNat =
        (a.toNat + (if daaTakesLow a ac then 6 else 0) + (if cy || decide (0x99 < a.toNat) then 0x60 else 0)) % 256 ∧
      (daa8 a ac cy).cy = (cy || decide (0x99 < a.toNat)) ∧ (daa8 a ac cy).ac = decide (9 < a.toNat % 16) := by
  have ha := a.isLt
  obtain ⟨hlow, hlowcy, hlowac⟩ := daaLow_spec a ac cy
  obtain ⟨hhigh, hhighcy, hhighac⟩ := daaHigh_spec (daaLow a ac cy)
  have htakes : ((daaLow a ac cy).cy || decide (0x9F < (daaLow a ac cy).res.toNat)) =
      (cy || decide (0x99 < a.toNat)) := by
    rw [hlow, hlowcy, Bool.or_assoc, ← Bool.decide_or]
    congr 1
    refine decide_eq_decide.mpr ?_
    cases hasked : daaTakesLow a ac
    · have hdigit : a.toNat % 16 ≤ 9 := by
        simp only [daaTakesLow, Bool.or_eq_false_iff, decide_eq_false_iff_not] at hasked
        omega
      simp only [Bool.false_eq_true, if_false]
      omega
    · simp only [if_true]
      omega
  rw [htakes, hlow, Nat.mod_add_mod] at hhigh
  rw [htakes] at hhighcy
  exact ⟨hhigh, hhighcy, hhighac.trans hlowac⟩

/-- Settles O20: the two steps in closed form, on A and the two carries. -/
theorem daaAdjustsInTwoSteps : Obligations.DaaAdjustsInTwoSteps := by
  refine ⟨rfl, fun s => ⟨_, exec_daa s, daa8_spec (s.reg .a) (s.flag .ac) (s.flag .cy), ?_, ?_⟩⟩
  · exact report_resultFlags (alu_resultFlags _ _) _
  · exact (alu_touches (s.fetched 1) _).completedPcFrame _

/-! ### Packed decimal addition -/

/-- R210 on the byte `m` of a binary sum `n` whose two nibble columns add up to `d1` and `d0`, as those of two packed bytes
and a carry do: each correction is taken exactly when its decimal column carries, and the corrected byte holds the two
digits of the decimal sum. -/
theorem decimal_adjusted {d1 d0 n m r : Nat} (hd1 : d1 ≤ 18) (hd0 : d0 ≤ 19) (hn : n = 16 * d1 + d0) (hm : m = n % 256)
    {low high : Prop} [Decidable low] [Decidable high] (hlow : low ↔ 15 < d0 ∨ 9 < m % 16)
    (hhigh : high ↔ 255 < n ∨ 0x99 < m)
    (hr : r = (m + (if low then 6 else 0) + if high then 0x60 else 0) % 256) :
    (high ↔ 99 < 10 * d1 + d0) ∧ r / 16 ≤ 9 ∧ r % 16 ≤ 9 ∧ r / 16 * 10 + r % 16 = (10 * d1 + d0) % 100 := by
  have hlow' : low ↔ 9 < d0 := by
    rw [hlow]
    omega
  have hhigh' : high ↔ 99 < 10 * d1 + d0 := by
    rw [hhigh]
    omega
  refine ⟨hhigh', ?_⟩
  simp only [hlow', hhigh'] at hr
  split_ifs at hr
  · have hdigits : r = 16 * (d1 - 9) + (d0 - 10) := by omega
    omega
  · have hdigits : r = 16 * (d1 + 1) + (d0 - 10) := by omega
    omega
  · have hdigits : r = 16 * (d1 - 10) + d0 := by omega
    omega
  · have hdigits : r = 16 * d1 + d0 := by omega
    omega

/-- Settles O21: ACI leaves the binary sum, and DAA corrects it. -/
theorem decimalAdditionIsExact : Obligations.DecimalAdditionIsExact := by
  intro s y ha hy
  obtain ⟨-, t, haci, hadded, -⟩ := (adcAddsTheCarryToo s).2 y
  obtain ⟨u, hdaa, ⟨hres, hcy, -⟩, -⟩ := daaAdjustsInTwoSteps.2 t
  simp only [packed, Bool.and_eq_true, decide_eq_true_iff] at ha hy
  have hbit : bit (s.flag .cy) ≤ 1 := bit_eq_toNat _ ▸ Bool.toNat_le _
  have hlow : (t.flag .ac || decide (9 < (t.reg .a).toNat % 16)) = true ↔
      15 < nibble (s.reg .a) + nibble y + bit (s.flag .cy) ∨ 9 < (t.reg .a).toNat % 16 := by
    rw [hadded.aux, ← Bool.decide_or, decide_eq_true_iff]
  have hhigh : (t.flag .cy || decide (0x99 < (t.reg .a).toNat)) = true ↔
      255 < (s.reg .a).toNat + y.toNat + bit (s.flag .cy) ∨ 0x99 < (t.reg .a).toNat := by
    rw [hadded.carry, ← Bool.decide_or, decide_eq_true_iff]
  unfold nibble at hlow
  have hsum : 10 * ((s.reg .a).toNat / 16 + y.toNat / 16) + ((s.reg .a).toNat % 16 + y.toNat % 16 + bit (s.flag .cy)) =
      decimal (s.reg .a) + decimal y + bit (s.flag .cy) := by
    unfold decimal
    omega
  obtain ⟨hcarry, hdigit1, hdigit0, hdecimal⟩ := decimal_adjusted (d1 := (s.reg .a).toNat / 16 + y.toNat / 16)
    (by omega) (by omega) (by omega) hadded.sum hlow hhigh hres
  rw [hsum] at hcarry hdecimal
  refine ⟨t, u, haci, hdaa, ?_, hdecimal, ?_⟩
  · simp [packed, hdigit1, hdigit0]
  · rw [hcy, Bool.eq_iff_iff, hcarry, decide_eq_true_iff]

/-! ### Opposite operations -/

/-- R213 (b): A is back after a subtraction and an addition of one byte. -/
theorem added_after_subtracted {s t u : State} {v : Byte} (hsub : Subtracted s t v false) (hadd : Added t u v false) :
    u.reg .a = s.reg .a := by
  have ha := (s.reg .a).isLt
  have hv := v.isLt
  apply BitVec.eq_of_toNat_eq
  rw [hadd.sum, hsub.difference]
  simp only [difference, bit, Bool.false_eq_true, if_false]
  omega

/-- R213 (d): a byte counted down and up again. -/
theorem counted_back {v w : Byte} {d : Nat} (hd : d = (v.toNat + 255) % 256) (hw : w.toNat = (d + 1) % 256) :
    w = v := by
  have hv := v.isLt
  apply BitVec.eq_of_toNat_eq
  omega

theorem andThen_eq {i j : Instr} {s t u : State} (hi : exec i s = .next t) (hj : exec j t = .next u) :
    andThen i j s = .next u := by
  rw [andThen, hi]
  exact hj

/-- Settles O22: each second operation finds its operand and its address as the first one left them. -/
theorem oppositeOperationsRestoreOperands : Obligations.OppositeOperationsRestoreOperands := by
  intro s
  refine ⟨fun d8 => ?_, fun r hr => ?_, fun r => ?_, ?_⟩
  · obtain ⟨-, t, ht, hsub, -⟩ := (subSetsAccumulatorAndBorrows s).2 d8
    obtain ⟨-, u, hu, hadd, -⟩ := (addSetsAccumulatorAndFlags t).2 d8
    exact ⟨u, andThen_eq ht hu, added_after_subtracted hsub hadd⟩
  · obtain ⟨-, t, ht, hsub, -⟩ := (subSetsAccumulatorAndBorrows s).1 (.reg r)
    obtain ⟨-, u, hu, hadd, -⟩ := (addSetsAccumulatorAndFlags t).1 (.reg r)
    have hkept : t.src (.reg r) = s.src (.reg r) := hsub.frame.keeps.regs r (by simp [allFlags, hr])
    rw [hkept] at hadd
    exact ⟨u, andThen_eq ht hu, added_after_subtracted hsub hadd⟩
  · obtain ⟨-, t, ht, hdown, -, -, -, htframe⟩ := (dcrDecrementsAndKeepsCarry s).1 r
    obtain ⟨-, u, hu, hup, -, -, -, huframe⟩ := (inrIncrementsAndKeepsCarry t).1 r
    have hcy : u.flag .cy = s.flag .cy :=
      (huframe.keeps.flags .cy (by simp [countFlags])).trans (htframe.keeps.flags .cy (by simp [countFlags]))
    exact ⟨u, andThen_eq ht hu, counted_back hdown hup, hcy⟩
  · obtain ⟨-, t, ht, hdown, -, -, -, htframe⟩ := (dcrDecrementsAndKeepsCarry s).2
    obtain ⟨-, u, hu, hup, -, -, -, huframe⟩ := (inrIncrementsAndKeepsCarry t).2
    have hpair : t.pair .hl = s.pair .hl :=
      congrArg₂ joinBytes (htframe.keeps.regs .h (by simp [countFlags])) (htframe.keeps.regs .l (by simp [countFlags]))
    have hcy : u.flag .cy = s.flag .cy :=
      (huframe.keeps.flags .cy (by simp [countFlags])).trans (htframe.keeps.flags .cy (by simp [countFlags]))
    rw [hpair] at hup
    exact ⟨u, andThen_eq ht hu, counted_back hdown hup, hcy⟩

/-! ### Rotations

A rotation is a move of bits by one place: RLC and RRC on the ring of eight bits that is A, RAL and RAR on the ring of nine
that is A and CY. -/

/-- A and CY. -/
def accCarry (s : State) : Byte × Bool := (s.reg .a, s.flag .cy)

/-- The instruction completes and does `f` to A and CY, which depends on these two only. -/
def Rotates (i : Instr) (f : Byte × Bool → Byte × Bool) : Prop :=
  ∀ s, ∃ t, exec i s = .next t ∧ accCarry t = f (accCarry s)

/-- R245. -/
def rlc8 (p : Byte × Bool) : Byte × Bool := (rotateIntoLow p.1 (p.1.getLsbD 7), p.1.getLsbD 7)

/-- R246. -/
def rrc8 (p : Byte × Bool) : Byte × Bool := (rotateIntoHigh p.1 (p.1.getLsbD 0), p.1.getLsbD 0)

/-- R247. -/
def ral8 (p : Byte × Bool) : Byte × Bool := (rotateIntoLow p.1 p.2, p.1.getLsbD 7)

/-- R248. -/
def rar8 (p : Byte × Bool) : Byte × Bool := (rotateIntoHigh p.1 p.2, p.1.getLsbD 0)

theorem rlc_rotates : Rotates .rlc rlc8 := fun s => ⟨_, exec_rlc s, rfl⟩
theorem rrc_rotates : Rotates .rrc rrc8 := fun s => ⟨_, exec_rrc s, rfl⟩
theorem ral_rotates : Rotates .ral ral8 := fun s => ⟨_, exec_ral s, rfl⟩
theorem rar_rotates : Rotates .rar rar8 := fun s => ⟨_, exec_rar s, rfl⟩

theorem times_rotates {i : Instr} {f : Byte × Bool → Byte × Bool} (h : Rotates i f) (n : Nat) (s : State) :
    ∃ t, times i n s = .next t ∧ accCarry t = f^[n] (accCarry s) := by
  induction n generalizing s with
  | zero => exact ⟨s, rfl, rfl⟩
  | succ n ih =>
    obtain ⟨t, hexec, ht⟩ := h s
    obtain ⟨u, htimes, hu⟩ := ih t
    refine ⟨u, ?_, ?_⟩
    · rw [times, hexec]
      exact htimes
    · rw [hu, ht, Function.iterate_succ_apply]

theorem andThen_rotates {i j : Instr} {f g : Byte × Bool → Byte × Bool} (hi : Rotates i f) (hj : Rotates j g)
    (s : State) : ∃ t, andThen i j s = .next t ∧ accCarry t = g (f (accCarry s)) := by
  obtain ⟨t, ht, hf⟩ := hi s
  obtain ⟨u, hu, hg⟩ := hj t
  exact ⟨u, andThen_eq ht hu, by rw [hg, hf]⟩

/-- A and CY as a ring of nine bits, CY above bit 7. -/
def ring (p : Byte × Bool) (k : Nat) : Bool := if k = 8 then p.2 else p.1.getLsbD k

theorem ring_ext {p q : Byte × Bool} (h : ∀ k < 9, ring p k = ring q k) : p = q := by
  refine Prod.ext (BitVec.eq_of_getLsbD_eq fun k hk => ?_) (h 8 (by decide))
  have hbit := h k (by omega)
  rwa [ring, ring, if_neg hk.ne, if_neg hk.ne] at hbit

/-- What moves every bit of a ring `d` places moves it `n * d` places when it is done `n` times. -/
theorem iterate_moves {α : Type} {size d : Nat} {bits : α → Nat → Bool} {f : α → α}
    (h : ∀ p, ∀ k < size, bits (f p) k = bits p ((k + d) % size)) (n : Nat) (p : α) (k : Nat) (hk : k < size) :
    bits (f^[n] p) k = bits p ((k + n * d) % size) := by
  induction n generalizing p with
  | zero => simp [Nat.mod_eq_of_lt hk]
  | succ n ih =>
    rw [Function.iterate_succ_apply, ih, h _ _ (Nat.mod_lt _ (by omega)), Nat.mod_add_mod]
    congr 2
    ring

theorem rlc8_moves (p : Byte × Bool) (k : Nat) (hk : k < 8) : (rlc8 p).1.getLsbD k = p.1.getLsbD ((k + 7) % 8) := by
  rw [rlc8, rotateIntoLow_bit]
  interval_cases k <;> rfl

theorem rrc8_moves (p : Byte × Bool) (k : Nat) (hk : k < 8) : (rrc8 p).1.getLsbD k = p.1.getLsbD ((k + 1) % 8) := by
  rw [rrc8, rotateIntoHigh_bit]
  interval_cases k <;> rfl

theorem ral8_moves (p : Byte × Bool) (k : Nat) (hk : k < 9) : ring (ral8 p) k = ring p ((k + 8) % 9) := by
  rw [ring, ral8, rotateIntoLow_bit]
  interval_cases k <;> rfl

theorem rar8_moves (p : Byte × Bool) (k : Nat) (hk : k < 9) : ring (rar8 p) k = ring p ((k + 1) % 9) := by
  rw [ring, rar8, rotateIntoHigh_bit]
  interval_cases k <;> rfl

/-- Eight times one place round a ring of eight; CY is the bit that went in last. -/
theorem rlc8_iterate_eight (p : Byte × Bool) : rlc8^[8] p = (p.1, p.1.getLsbD 0) := by
  refine Prod.ext (BitVec.eq_of_getLsbD_eq fun k hk => ?_) ?_
  · rw [iterate_moves (bits := fun p => p.1.getLsbD) rlc8_moves 8 p k hk, Nat.add_mul_mod_self_left,
      Nat.mod_eq_of_lt hk]
  · rw [Function.iterate_succ_apply']
    exact iterate_moves (bits := fun p => p.1.getLsbD) rlc8_moves 7 p 7 (by decide)

theorem rrc8_iterate_eight (p : Byte × Bool) : rrc8^[8] p = (p.1, p.1.getLsbD 7) := by
  refine Prod.ext (BitVec.eq_of_getLsbD_eq fun k hk => ?_) ?_
  · rw [iterate_moves (bits := fun p => p.1.getLsbD) rrc8_moves 8 p k hk, Nat.add_mul_mod_self_left,
      Nat.mod_eq_of_lt hk]
  · rw [Function.iterate_succ_apply']
    exact iterate_moves (bits := fun p => p.1.getLsbD) rrc8_moves 7 p 0 (by decide)

/-- Nine times one place round the ring of nine. -/
theorem ral8_iterate_nine (p : Byte × Bool) : ral8^[9] p = p := by
  refine ring_ext fun k hk => ?_
  rw [iterate_moves ral8_moves 9 p k hk, Nat.add_mul_mod_self_left, Nat.mod_eq_of_lt hk]

theorem rar8_ral8 (p : Byte × Bool) : rar8 (ral8 p) = p := by
  refine ring_ext fun k hk => ?_
  rw [rar8_moves _ k hk, ral8_moves _ _ (Nat.mod_lt _ (by decide)), Nat.mod_add_mod]
  congr 1
  omega

theorem ral8_rar8 (p : Byte × Bool) : ral8 (rar8 p) = p := by
  refine ring_ext fun k hk => ?_
  rw [ral8_moves _ k hk, rar8_moves _ _ (Nat.mod_lt _ (by decide)), Nat.mod_add_mod]
  congr 1
  omega

theorem completes_accCarry {o : Host.Outcome State Fault Refusal} {p q : Byte × Bool}
    (h : ∃ t, o = .next t ∧ accCarry t = p) (hp : p = q) : ∃ t, o = .next t ∧ t.reg .a = q.1 ∧ t.flag .cy = q.2 := by
  obtain ⟨t, ho, ht⟩ := h
  rw [hp] at ht
  exact ⟨t, ho, congrArg Prod.fst ht, congrArg Prod.snd ht⟩

/-- Settles O28: the five laws hold of A and CY alone. -/
theorem rotateLaws : Obligations.RotateLaws := fun s =>
  ⟨completes_accCarry (times_rotates rlc_rotates 8 s) (rlc8_iterate_eight _),
   completes_accCarry (times_rotates rrc_rotates 8 s) (rrc8_iterate_eight _),
   completes_accCarry (times_rotates ral_rotates 9 s) (ral8_iterate_nine _),
   completes_accCarry (andThen_rotates ral_rotates rar_rotates s) (rar8_ral8 _),
   completes_accCarry (andThen_rotates rar_rotates ral_rotates s) (ral8_rar8 _)⟩

end Sys2Proof.Machine
end

section
/-! PROOFS. 43_data_transfer.md R263 to R269 and R272, 45_stack.md R301, R304 and R305, 47_machine_control.md R371 to R377:
the immediate and direct transfers, the exchanges, PUSH PSW, PUSH with POP, and machine control. -/

open Sys2Proof Sys2Proof.Claims

namespace Sys2Proof.Machine

/-! ### Immediate and direct transfers -/

/-- R265: a pair of two registers takes the two operand bytes. -/
theorem exec_lxi_loads (s : State) (p : RegPair) (v : Word) :
    ∃ t, exec (.lxi p v) s = .next t ∧ t.pair p = v ∧ t.pc = s.pc + 3#16 ∧ Frame (pairReads p) [] s t :=
  ⟨_, exec_lxi p v s, setPair_completed s 3 _ v p⟩

theorem joinBytes_inj {hi lo hi' lo' : Byte} (h : joinBytes hi lo = joinBytes hi' lo') : hi = hi' ∧ lo = lo' :=
  ⟨by simpa using congrArg hiByte h, by simpa using congrArg loByte h⟩

/-- R265: the high register is loaded from byte 3, the low one from byte 2. -/
theorem exec_lxi_loads_registers (s : State) (p : RegPair) (hi lo : Byte) {rhi rlo : Reg}
    (hpair : ∀ t : State, t.pair p = joinBytes (t.reg rhi) (t.reg rlo)) :
    ∃ t, exec (.lxi p (joinBytes hi lo)) s = .next t ∧ t.reg rhi = hi ∧ t.reg rlo = lo ∧ t.pc = s.pc + 3#16 ∧
      Frame (pairReads p) [] s t := by
  obtain ⟨t, hexec, hword, hrest⟩ := exec_lxi_loads s p (joinBytes hi lo)
  obtain ⟨hhi, hlo⟩ := joinBytes_inj ((hpair t).symm.trans hword)
  exact ⟨t, hexec, hhi, hlo, hrest⟩

theorem encode_lxi (p : RegPair) (hi lo : Byte) :
    encode (.lxi p (joinBytes hi lo)) = [(Instr.lxi p 0).opcode, lo, hi] := by
  have hbytes : encode (.lxi p (joinBytes hi lo)) =
    [(Instr.lxi p 0).opcode, loByte (joinBytes hi lo), hiByte (joinBytes hi lo)] := rfl
  rw [hbytes, loByte_joinBytes, hiByte_joinBytes]

/-- Settles O30: MVI writes an operand, LXI a pair. -/
theorem immediateLoads : Obligations.ImmediateLoads := by
  intro s
  refine ⟨fun r d8 => ⟨rfl, _, exec_mvi (.reg r) d8 s, setDst_completed s 2 _ d8 (.reg r)⟩,
    fun d8 => ⟨rfl, _, exec_mvi .m d8 s, setDst_completed s 2 _ d8 .m⟩, fun lo hi => ⟨?_, ?_, ?_, ?_⟩⟩
  · exact ⟨encode_lxi .bc hi lo, exec_lxi_loads_registers s .bc hi lo fun _ => rfl⟩
  · exact ⟨encode_lxi .de hi lo, exec_lxi_loads_registers s .de hi lo fun _ => rfl⟩
  · exact ⟨encode_lxi .hl hi lo, exec_lxi_loads_registers s .hl hi lo fun _ => rfl⟩
  · obtain ⟨t, hexec, hword, hrest⟩ := exec_lxi_loads s .sp (joinBytes hi lo)
    have hsp : t.sp.toNat = hi.toNat * 256 + lo.toNat := (congrArg BitVec.toNat hword).trans (joinBytes_toNat hi lo)
    exact ⟨encode_lxi .sp hi lo, t, hexec, hsp, hrest⟩

/-- R75: the low byte at the address, the high byte at the next one. -/
theorem writeWord_read (s : State) (a v : Word) :
    (s.writeWord a v).read a = loByte v ∧ (s.writeWord a v).read (a + 1#16) = hiByte v := by
  simp [State.writeWord]

/-- R268: HL is loaded with the word at the address. -/
theorem exec_lhld_loads (s : State) (a : Word) :
    ∃ t, exec (.lhld a) s = .next t ∧ t.reg .l = s.read a ∧ t.reg .h = s.read (a + 1#16) ∧ t.pc = s.pc + 3#16 ∧
      Frame [.reg .h, .reg .l] [] s t := by
  obtain ⟨hword, hrest⟩ := setPair_completed s 3 (cyclesOf s (.lhld a)) (s.readWord a) .hl
  obtain ⟨hhigh, hlow⟩ := joinBytes_inj hword
  exact ⟨_, exec_lhld a s, hlow, hhigh, hrest⟩

/-- R269: the word HL is stored at the address. -/
theorem exec_shld_stores (s : State) (a : Word) :
    ∃ t, exec (.shld a) s = .next t ∧ t.read a = s.reg .l ∧ t.read (a + 1#16) = s.reg .h ∧ t.pc = s.pc + 3#16 ∧
      Frame [] [a, a + 1#16] s t := by
  obtain ⟨hlow, hhigh⟩ := writeWord_read (s.fetched 3) a (s.pair .hl)
  exact ⟨_, exec_shld a s, hlow.trans (loByte_joinBytes _ _), hhigh.trans (hiByte_joinBytes _ _),
    (writeWord_touches (s.fetched 3) a _).completedPcFrame _⟩

/-- Settles O31: LDA and LHLD write places, STA and SHLD bytes. -/
theorem directLoadsAndStores : Obligations.DirectLoadsAndStores := fun s a16 =>
  ⟨⟨rfl, _, exec_lda a16 s, setDst_completed s 3 _ (s.read a16) (.reg .a)⟩,
   ⟨rfl, _, exec_sta a16 s, write_completed s 3 _ (s.reg .a) a16⟩,
   ⟨rfl, exec_lhld_loads s a16⟩, ⟨rfl, exec_shld_stores s a16⟩⟩

/-! ### Exchanges -/

theorem exec_xchg_swaps (s : State) :
    ∃ t, exec .xchg s = .next t ∧ t.reg .h = s.reg .d ∧ t.reg .l = s.reg .e ∧ t.reg .d = s.reg .h ∧
      t.reg .e = s.reg .l ∧ t.pc = s.pc + 1#16 ∧ Frame [.reg .h, .reg .l, .reg .d, .reg .e] [] s t := by
  have htouch := (setPair_touches (s.fetched 1) .hl (s.pair .de)).trans (setPair_touches _ .de (s.pair .hl))
  exact ⟨_, exec_xchg s, hiByte_joinBytes _ _, loByte_joinBytes _ _, hiByte_joinBytes _ _, loByte_joinBytes _ _,
    htouch.completedPcFrame _⟩

/-- D20: both bytes are read before the writes. -/
theorem exec_xthl_swaps (s : State) :
    ∃ t, exec .xthl s = .next t ∧ t.reg .l = s.read s.sp ∧ t.reg .h = s.read (s.sp + 1#16) ∧
      t.read s.sp = s.reg .l ∧ t.read (s.sp + 1#16) = s.reg .h ∧ t.pc = s.pc + 1#16 ∧
      Frame [.reg .h, .reg .l] [s.sp, s.sp + 1#16] s t := by
  obtain ⟨hlow, hhigh⟩ := writeWord_read (s.fetched 1) s.sp (s.pair .hl)
  have htouch := (writeWord_touches (s.fetched 1) s.sp (s.pair .hl)).trans (setPair_touches _ .hl (s.readWord s.sp))
  exact ⟨_, exec_xthl s, loByte_joinBytes _ _, hiByte_joinBytes _ _, hlow.trans (loByte_joinBytes _ _),
    hhigh.trans (hiByte_joinBytes _ _), htouch.completedPcFrame _⟩

/-- Settles O33: XCHG touches four registers, XTHL two and the two bytes on top of the stack. -/
theorem exchangesSwapWords : Obligations.ExchangesSwapWords := fun s =>
  ⟨⟨rfl, exec_xchg_swaps s⟩, ⟨rfl, exec_xthl_swaps s⟩⟩

/-! ### PUSH PSW -/

/-- The flag byte as a number: S Z 0 AC 0 P 1 CY (10_state.md R36, D6). -/
theorem toByte_toNat (g : Flags) :
    g.toByte.toNat = bit g.s * 128 + bit g.z * 64 + bit g.ac * 16 + bit g.p * 4 + 2 + bit g.cy := by
  obtain ⟨sf, z, ac, p, cy⟩ := g
  cases sf <;> cases z <;> cases ac <;> cases p <;> cases cy <;> rfl

/-- Settles O37: PSW is A over the flag byte. -/
theorem pushPswStoresTheFlagByte : Obligations.PushPswStoresTheFlagByte := by
  intro s
  obtain ⟨t, hexec, hhigh, hlow, hrest⟩ := exec_push_stores s .psw rfl
  exact ⟨rfl, t, hexec, hhigh, (congrArg BitVec.toNat hlow).trans (toByte_toNat s.flags), hrest⟩

/-! ### PUSH, then POP -/

/-- The flag byte already has the fixed bits a loaded byte is given. -/
theorem toByte_masked (g : Flags) : (g.toByte &&& 0xD5#8) ||| 0x02#8 = g.toByte := by
  obtain ⟨sf, z, ac, p, cy⟩ := g
  cases sf <;> cases z <;> cases ac <;> cases p <;> cases cy <;> rfl

/-- What a pair holds after a word is put into it: the word, with the fixed bits of the flag byte if it is PSW. -/
theorem setStackPair_stackPair (s : State) (q : StackPair) (v : Word) :
    (s.setStackPair q v).stackPair q =
      if q = .psw then joinBytes (hiByte v) ((loByte v &&& 0xD5#8) ||| 0x02#8) else v := by
  cases q with
  | bc => exact setPair_pair s .bc v
  | de => exact setPair_pair s .de v
  | hl => exact setPair_pair s .hl v
  | psw => exact congrArg (joinBytes (hiByte v)) (setFlagByte_toByte (s.setReg .a (hiByte v)) (loByte v))

theorem setPair_self (s : State) (p : RegPair) (r : Reg) : (s.setPair p (s.pair p)).reg r = s.reg r := by
  cases p <;> cases r <;> simp [State.setPair, State.pair]

theorem setFlagByte_self (s : State) : (s.setFlagByte s.flags.toByte).flags = s.flags := by
  rw [setFlagByte_flags]
  simp only [toByte_getLsbD]
  rfl

/-- A pair that is given the word it holds keeps every register and flag. -/
theorem setStackPair_self (s : State) (p : StackPair) :
    (∀ r, (s.setStackPair p (s.stackPair p)).reg r = s.reg r) ∧
      ∀ f, (s.setStackPair p (s.stackPair p)).flag f = s.flag f := by
  cases p with
  | bc => exact ⟨setPair_self s .bc, fun _ => rfl⟩
  | de => exact ⟨setPair_self s .de, fun _ => rfl⟩
  | hl => exact ⟨setPair_self s .hl, fun _ => rfl⟩
  | psw =>
    have hword : s.setStackPair .psw (s.stackPair .psw) = (s.setReg .a (s.reg .a)).setFlagByte s.flags.toByte := by
      simp [State.setStackPair, State.stackPair]
    rw [hword]
    exact ⟨fun r => by cases r <;> rfl, fun f => congrArg (Flags.get · f) (setFlagByte_self s)⟩

theorem stackPair_congr {s t : State} (hreg : ∀ r, t.reg r = s.reg r) (hflags : t.flags = s.flags) (p : StackPair) :
    t.stackPair p = s.stackPair p := by
  cases p <;> simp [State.stackPair, State.pair, hreg, hflags]

/-- R300, R301: the pair lies on top of the stack, two below the old SP. -/
theorem exec_push_top (s : State) (p : StackPair) :
    ∃ u, exec (.push p) s = .next u ∧ u.top16 = s.stackPair p ∧ u.sp + 2#16 = s.sp ∧ u.regs = s.regs ∧
      u.flags = s.flags := by
  obtain ⟨htop, hsp⟩ := push16_pop16 (s.fetched 1) (s.stackPair p)
  rw [exec_push, completes_eq, fetched_stackPair]
  exact ⟨_, rfl, htop, hsp, rfl, rfl⟩

/-- Settles O40: what is popped into `q` is the word of `p`; into `p` itself, the word `p` still holds. -/
theorem pushThenPopCopiesAPair : Obligations.PushThenPopCopiesAPair := by
  intro s p q
  obtain ⟨u, hpush, htop, husp, huregs, huflags⟩ := exec_push_top s p
  obtain ⟨t, hpop, htregs, htflags, htsp, -, -⟩ := exec_pop_loads u q (List.Perm.refl _)
  rw [htop] at htregs htflags
  have hreg (r : Reg) : t.reg r = (u.setStackPair q (s.stackPair p)).reg r := congrArg (Regs.get · r) htregs
  have hflag (f : Flag) : t.flag f = (u.setStackPair q (s.stackPair p)).flag f := congrArg (Flags.get · f) htflags
  have hureg (r : Reg) : u.reg r = s.reg r := congrArg (Regs.get · r) huregs
  refine ⟨t, andThen_eq hpush hpop, htsp.trans husp, ?_, ?_⟩
  · rw [stackPair_congr hreg htflags, setStackPair_stackPair]
    by_cases hq : q = .psw
    · by_cases hp : p = .psw
      · subst hp
        simp [hq, State.stackPair, toByte_masked]
      · simp [hq, hp]
    · simp [hq]
  · rintro rfl
    rw [← stackPair_congr hureg huflags p] at hreg hflag
    obtain ⟨hkreg, hkflag⟩ := setStackPair_self u p
    exact ⟨fun r => (hreg r).trans ((hkreg r).trans (hureg r)),
      fun f => (hflag f).trans ((hkflag f).trans (congrArg (Flags.get · f) huflags))⟩

/-! ### Machine control and I/O -/

/-- Settles O48: each writes its control bits over the fetched state and nothing else. -/
theorem hltEiAndDiWriteControlState : Obligations.HltEiAndDiWriteControlState := by
  intro s
  obtain ⟨hkeeps, -, hio⟩ := (Touches.refl (s.fetched 1)).completed 0
  exact ⟨⟨rfl, _, exec_hlt s, rfl, rfl, rfl, rfl, { hkeeps with }, { hio with }, rfl, rfl, rfl⟩,
    ⟨rfl, _, exec_ei s, rfl, rfl, rfl, rfl, { hkeeps with }, { hio with }, rfl, rfl, rfl⟩,
    ⟨rfl, _, exec_di s, rfl, rfl, rfl, rfl, { hkeeps with }, { hio with }, rfl, rfl, rfl⟩⟩

/-- Settles O49: IN writes A over the state in which the answer has been taken; OUT adds its event. -/
theorem inAndOutMeetTheEnvironment : Obligations.InAndOutMeetTheEnvironment := by
  intro s p8
  obtain ⟨hin, hincontrol, -⟩ := (setReg_touches (s.fetched 2) .a s.ioAnswer).completed 0
  obtain ⟨hout, houtcontrol, -⟩ := (Touches.refl (s.fetched 2)).completed 0
  exact ⟨⟨rfl, _, exec_inp p8 s, rfl, rfl, rfl, rfl, rfl, rfl, { hin with }, { hincontrol with }⟩,
    ⟨rfl, _, exec_out p8 s, rfl, rfl, rfl, { hout with }, { houtcontrol with }⟩⟩

end Sys2Proof.Machine
end

section
/-! PROOFS. 46_control_flow.md: jumps, calls, returns, RST and PCHL (R320 to R350). An unconditional transfer is one that is
always taken, so each of the three families of nine instructions is one lemma over the instruction, its condition and its
count. -/

open Sys2Proof Sys2Proof.Claims

namespace Sys2Proof.Machine

/-! ### Counts (R456, D17) -/

section Counts

variable {s : State} {i : Instr} {cond : Cond} {alt : Nat}

/-- With the default table, an instruction without a second count costs its row. -/
theorem cyclesOf_default (hrows : s.params.cycleRows = []) (halt : altCycles i = none) :
    cyclesOf s i = defaultCycles i := by
  simp [cyclesOf, hrows, halt, CycleRow.find]

/-- With the default table, a conditional call or return costs by its condition. -/
theorem cyclesOf_conditional (hrows : s.params.cycleRows = []) (halt : altCycles i = some (cond, alt)) :
    cyclesOf s i = if s.holds cond then defaultCycles i else alt := by
  simp [cyclesOf, hrows, halt, CycleRow.find]

end Counts

/-! ### The three families -/

/-- The instruction makes the transfer when `taken` says so, which the fetch does not change, and does nothing else. -/
structure TransfersIf (i : Instr) (taken : State → Bool) (transfer : State → State) : Prop where
  exec_eq : ∀ s, exec i s = completes i s fun s => if taken s then transfer s else s
  taken_fetched : ∀ s n, taken (s.fetched n) = taken s

theorem TransfersIf.completes {i : Instr} {taken : State → Bool} {transfer : State → State}
    (h : TransfersIf i taken transfer) (s : State) :
    ∃ t, exec i s = .next t ∧
      t = (if taken s then transfer (s.fetched i.length) else s.fetched i.length).report (cyclesOf s i) := by
  refine ⟨_, h.exec_eq s, ?_⟩
  beta_reduce
  rw [h.taken_fetched]

/-- A write of PC after an effect leaves its frame. -/
theorem Touches.completedFrame_setPc {w : List Loc} {m : List Word} {s t : State} {n : Nat}
    (h : Touches w m (s.fetched n) t) (v : Word) (c : Nat) : Frame w m s ((t.setPc v).report c) := by
  obtain ⟨hkeeps, hcontrol, hio⟩ := h.completedFrame c
  exact ⟨{ hkeeps with }, { hcontrol with }, { hio with }⟩

/-- What an untaken transfer leaves. -/
theorem fetched_completed (s : State) (n c : Nat) :
    ((s.fetched n).report c).pc = s.pc + BitVec.ofNat 16 n ∧ Frame [] [] s ((s.fetched n).report c) :=
  (Touches.refl (s.fetched n)).completedPcFrame c

/-- `Push16(PC); PC <- a` after the fetch. -/
theorem call_completed (s : State) (n c : Nat) (a : Word) :
    Pushes s (((s.fetched n).call a).report c) (s.pc + BitVec.ofNat 16 n) ∧
      Frame [.sp] (pushed s) s (((s.fetched n).call a).report c) :=
  ⟨{ push16_pushes (s.fetched n) (s.fetched n).pc with },
    (push16_touches (s.fetched n) (s.fetched n).pc).completedFrame_setPc a c⟩

/-- `PC <- Pop16()` after the fetch. -/
theorem returned_completed (s : State) (n c : Nat) :
    Pops s ((s.fetched n).returned.report c) ((s.fetched n).returned.report c).pc ∧
      Frame [.sp] [] s ((s.fetched n).returned.report c) :=
  ⟨{ drop16_pops (s.fetched n) with }, (drop16_touches (s.fetched n)).completedFrame_setPc (s.fetched n).top16 c⟩

section Families

variable {taken : State → Bool} {op : Byte}

theorem jumps_of_transfersIf {i : Word → Instr} (hencode : ∀ a, encode (i a) = [op, loByte a, hiByte a])
    (hlength : ∀ a, (i a).length = 3) (htransfers : ∀ a, TransfersIf (i a) taken fun s => s.jump a)
    (hcost : ∀ s a, s.params.cycleRows = [] → cyclesOf s (i a) = 10) : Jumps i op taken := by
  intro s a
  obtain ⟨t, hexec, rfl⟩ := (htransfers a).completes s
  refine ⟨hencode a, _, hexec, ?_, hcost s a, ?_⟩
  · rw [hlength]
    cases taken s <;> rfl
  · rw [hlength]
    cases taken s
    · exact (fetched_completed s 3 _).2
    · exact (Touches.refl (s.fetched 3)).completedFrame_setPc a _

theorem calls_of_transfersIf {i : Word → Instr} (hencode : ∀ a, encode (i a) = [op, loByte a, hiByte a])
    (hlength : ∀ a, (i a).length = 3) (htransfers : ∀ a, TransfersIf (i a) taken fun s => s.call a)
    (hcost : ∀ s a, s.params.cycleRows = [] → cyclesOf s (i a) = if taken s then 17 else 11) : Calls i op taken := by
  intro s a
  obtain ⟨t, hexec, rfl⟩ := (htransfers a).completes s
  refine ⟨hencode a, _, hexec, ?_⟩
  have hcost := hcost s a
  rw [hlength]
  cases htaken : taken s
  · obtain ⟨hpc, hframe⟩ := fetched_completed s 3 (cyclesOf s (i a))
    rw [htaken] at hcost
    exact ⟨hpc, hcost, hframe⟩
  · obtain ⟨hpushes, hframe⟩ := call_completed s 3 (cyclesOf s (i a)) a
    rw [htaken] at hcost
    exact ⟨rfl, hpushes, hcost, hframe⟩

theorem returns_of_transfersIf {i : Instr} {cost : Nat} (hencode : encode i = [op]) (hlength : i.length = 1)
    (htransfers : TransfersIf i taken State.returned)
    (hcost : ∀ s, s.params.cycleRows = [] → cyclesOf s i = if taken s then cost else 5) : Returns i op taken cost := by
  intro s
  obtain ⟨t, hexec, rfl⟩ := htransfers.completes s
  refine ⟨hencode, _, hexec, ?_⟩
  have hcost := hcost s
  rw [hlength]
  cases htaken : taken s
  · obtain ⟨hpc, hframe⟩ := fetched_completed s 1 (cyclesOf s i)
    rw [htaken] at hcost
    exact ⟨hpc, hcost, hframe⟩
  · obtain ⟨hpops, hframe⟩ := returned_completed s 1 (cyclesOf s i)
    rw [htaken] at hcost
    exact ⟨hpops, hcost, hframe⟩

end Families

/-- Settles O42: every row of the family costs 10, taken or not. -/
theorem jumpsFollowTheirCondition : Obligations.JumpsFollowTheirCondition := by
  refine ⟨?_, ?_, ?_, ?_, ?_, ?_, ?_, ?_, ?_⟩ <;>
    exact jumps_of_transfersIf (fun _ => rfl) (fun _ => rfl) (fun _ => ⟨fun _ => rfl, fun _ _ => rfl⟩)
      fun _ _ hrows => cyclesOf_default hrows rfl

/-- Settles O43: CALL costs its row, a conditional call by its condition. -/
theorem callsPushTheReturnAddress : Obligations.CallsPushTheReturnAddress := by
  refine ⟨calls_of_transfersIf (fun _ => rfl) (fun _ => rfl) (fun _ => ⟨fun _ => rfl, fun _ _ => rfl⟩)
      fun _ _ hrows => cyclesOf_default hrows rfl, ?_, ?_, ?_, ?_, ?_, ?_, ?_, ?_⟩ <;>
    exact calls_of_transfersIf (fun _ => rfl) (fun _ => rfl) (fun _ => ⟨fun _ => rfl, fun _ _ => rfl⟩)
      fun _ _ hrows => Eq.trans (cyclesOf_conditional hrows rfl) rfl

/-- Settles O44: RET costs its row, a conditional return by its condition. -/
theorem returnsPopThePc : Obligations.ReturnsPopThePc := by
  refine ⟨returns_of_transfersIf rfl rfl ⟨fun _ => rfl, fun _ _ => rfl⟩ fun _ hrows => cyclesOf_default hrows rfl,
      ?_, ?_, ?_, ?_, ?_, ?_, ?_, ?_⟩ <;>
    exact returns_of_transfersIf rfl rfl ⟨fun _ => rfl, fun _ _ => rfl⟩
      fun _ hrows => Eq.trans (cyclesOf_conditional hrows rfl) rfl

/-! ### RST, PCHL, and a call with its return -/

/-- Settles O45: RST is a call to its vector, PCHL a jump to HL. -/
theorem rstAndPchlSetPc : Obligations.RstAndPchlSetPc := by
  intro s
  refine ⟨fun n => ?_, rfl, _, exec_pchl s, joinBytes_toNat (s.reg .h) (s.reg .l), ?_⟩
  · obtain ⟨hpushes, hframe⟩ := call_completed s 1 (cyclesOf s (.rst n)) (vector n)
    exact ⟨rfl, _, exec_rst n s, vector_toNat n, hpushes, hframe⟩
  · exact (Touches.refl (s.fetched 1)).completedFrame_setPc (s.pair .hl) _

/-- Settles O46: what RET pops is the word CALL pushed, since the callee gave it back. -/
theorem callThenReturnComesBack : Obligations.CallThenReturnComesBack := by
  intro s u a
  obtain ⟨-, t, hcall, -, hpushes, -, -⟩ := callsPushTheReturnAddress.1 s a
  obtain ⟨-, v, hret, hpops, -, -⟩ := returnsPopThePc.1 u
  refine ⟨t, hcall, fun hsp hlow hhigh => ⟨v, hret, ?_, ?_⟩⟩
  · have habove : s.sp - 2#16 + 1#16 = s.sp - 1#16 := by bv_omega
    have hword := hpops.value
    rw [hsp, hlow, hhigh, hpushes.sp, habove, hpushes.high, hpushes.low] at hword
    apply BitVec.eq_of_toNat_eq
    omega
  · rw [hpops.sp, hsp, hpushes.sp]
    bv_omega

end Sys2Proof.Machine
end
